-- ==== Sys2Proof/Word.lean ====
section
/-! DEFINITION. The bit-vector types of the CHIP-8 CORE (spec 00_scope.md R10 to R12, 30_encoding.md R92):
bytes, 16-bit words, the 4-bit fields of an opcode and the 12-bit address immediate. All values are unsigned (R10). -/

namespace Sys2Proof

/-- An 8-bit value: a general register, a timer, a byte of memory, the immediate `NN`. -/
abbrev Byte := BitVec 8

/-- A 16-bit value: `I`, `PC`, a stack entry, an opcode, the keypad bitmap. -/
abbrev Word := BitVec 16

/-- A 4-bit opcode field that selects a general register (`X` or `Y`, R94); register `i` is `V[i]`. -/
abbrev Reg := BitVec 4

/-- A 4-bit value that is not a register number: the sprite height `N`, a key number, a digit. -/
abbrev Nibble := BitVec 4

/-- The 12-bit address immediate `NNN` (R94). -/
abbrev Imm12 := BitVec 12

/-- `VF`, general register 15, which doubles as the only flag (10_state.md R22). -/
abbrev vf : Reg := 0xF#4

/-- `zext_16` of a 12-bit immediate (R94). -/
abbrev zext16 (n : Imm12) : Word := n.setWidth 16

/-- `zext_16` of a byte. -/
abbrev zextByte (b : Byte) : Word := b.setWidth 16

end Sys2Proof
end

