-- ==== Sys2Proof/Config.lean ====
section
/-! DEFINITION. The configuration straps of the CHIP-8 CORE (spec 00_scope.md R5 to R9, 10_state.md R43) and the
one free input of an instruction, the random byte (10_state.md R38).

MEM_SIZE 4096, NUM_V 16, DISP_W 64, DISP_H 32, NUM_KEYS 16 and TIMER_HZ 60 are fixed by R6 and stand as numerals
where they are used. The other parameters are fields of `Config`. A strap is sampled at reset and constant until the
next reset (R5); the machine's state holds the sampled record (`State.cfg`), so a statement about every state
is a statement about every configuration, among them all sixteen settings of the four quirk toggles (R7). -/

namespace Sys2Proof

/-- The parameter table of R6. Any record may be presented to `Reset`; which ones are legal is `Config.legal` (R8), and
an illegal one ends reset in the load fault (60_exceptions.md R226). The widths are a DESIGN CHOICE, safe (notes/assumptions/12.md). -/
structure Config where
  /-- `LOAD_ADDR`: address of the first program byte and reset value of `PC`. -/
  loadAddr : Word
  /-- `STACK_DEPTH`: stack capacity in entries. -/
  stackDepth : Nat
  /-- `FONT_BASE`: address of the first font byte. -/
  fontBase : Word
  /-- `Q_SHIFT_VY`: `8XY6`/`8XYE` shift `V[Y]` (true) or `V[X]` (false) (R159, R161). -/
  qShiftVy : Bool
  /-- `Q_JUMP_VX`: `BNNN` adds `V[X]` (true) or `V0` (false) (R124). -/
  qJumpVx : Bool
  /-- `Q_INC_I`: `FX55`/`FX65` advance `I` (true) or leave it (false) (R212, R213). -/
  qIncI : Bool
  /-- `Q_CLIP`: sprite pixels past the right or bottom edge are dropped (true) or wrap (false) (R182). -/
  qClip : Bool
  /-- `IPS`: instructions per second; read by the clock divider only (R283, R284). -/
  ips : Nat
  /-- `CLK_HZ`: frequency of `clk`; read by the clock divider only (R284). -/
  clkHz : Nat
deriving DecidableEq, Repr

/-- The configuration `State.reset` samples: the defaults of R6 for `LOAD_ADDR`, `STACK_DEPTH` and `FONT_BASE`.
DESIGN CHOICE (notes/assumptions/1.md), unsafe: R7 leaves the four toggles without a default and R6 gives none for `IPS` and
`CLK_HZ`; the toggles are all 0 here, as in the conventions of 95_test_vectors.md. No statement rests on it. -/
def Config.standard : Config where
  loadAddr := 0x200#16
  stackDepth := 16
  fontBase := 0x050#16
  qShiftVy := false
  qJumpVx := false
  qIncI := false
  qClip := false
  ips := 600
  clkHz := 60000

/-- FREE VALUE (notes/assumptions/3.md), safe: the byte that the input `rnd` (R38) shows at the `n`-th draw for which the
environment has supplied none. It has no body: no proof can know a value of it, and R172 forbids any law about it. -/
opaque Config.rndInput : Nat → Byte

end Sys2Proof
end

