-- ==== Sys2Proof/Syntax.lean ====
section
/-! DEFINITION. The instruction set (spec 30_encoding.md R100, spec/opcode_table.json): one constructor per row, 34 in
the table's order. Operands are the fields of the opcode at their exact widths (R92, R94), so no instruction of this type
has an operand outside its field: R106, "operand values never make a legal pattern illegal". -/

namespace Sys2Proof

/-- An instruction with its operand fields. The comment on each constructor is its pattern and its rule. -/
inductive Instr where
  /-- `00E0` CLS: clear display (R181). -/
  | cls
  /-- `00EE` RET: return from subroutine (R121). -/
  | ret
  /-- `1NNN` JP NNN: jump (R122). -/
  | jp (nnn : Imm12)
  /-- `2NNN` CALL NNN: call subroutine (R123). -/
  | call (nnn : Imm12)
  /-- `3XNN` SE Vx, NN: skip if equal (R131). -/
  | seImm (x : Reg) (nn : Byte)
  /-- `4XNN` SNE Vx, NN: skip if not equal (R132). -/
  | sneImm (x : Reg) (nn : Byte)
  /-- `5XY0` SE Vx, Vy: skip if registers equal (R133). -/
  | seReg (x y : Reg)
  /-- `6XNN` LD Vx, NN: load immediate (R141). -/
  | ldImm (x : Reg) (nn : Byte)
  /-- `7XNN` ADD Vx, NN: add immediate (R142). -/
  | addImm (x : Reg) (nn : Byte)
  /-- `8XY0` LD Vx, Vy: copy register (R153). -/
  | ldReg (x y : Reg)
  /-- `8XY1` OR Vx, Vy (R154). -/
  | orReg (x y : Reg)
  /-- `8XY2` AND Vx, Vy (R155). -/
  | andReg (x y : Reg)
  /-- `8XY3` XOR Vx, Vy (R156). -/
  | xorReg (x y : Reg)
  /-- `8XY4` ADD Vx, Vy: add with carry out (R157). -/
  | addReg (x y : Reg)
  /-- `8XY5` SUB Vx, Vy: subtract `V[Y]` from `V[X]` (R158). -/
  | sub (x y : Reg)
  /-- `8XY6` SHR Vx, Vy: shift right by one (R159). -/
  | shr (x y : Reg)
  /-- `8XY7` SUBN Vx, Vy: subtract `V[X]` from `V[Y]` (R160). -/
  | subn (x y : Reg)
  /-- `8XYE` SHL Vx, Vy: shift left by one (R161). -/
  | shl (x y : Reg)
  /-- `9XY0` SNE Vx, Vy: skip if registers differ (R134). -/
  | sneReg (x y : Reg)
  /-- `ANNN` LD I, NNN: load index register (R171). -/
  | ldI (nnn : Imm12)
  /-- `BNNN` JP V0, NNN: jump with offset (R124). -/
  | jpV0 (nnn : Imm12)
  /-- `CXNN` RND Vx, NN: masked random byte (R172). -/
  | rnd (x : Reg) (nn : Byte)
  /-- `DXYN` DRW Vx, Vy, N: draw sprite (R182). -/
  | drw (x y : Reg) (n : Nibble)
  /-- `EX9E` SKP Vx: skip if key pressed (R191). -/
  | skp (x : Reg)
  /-- `EXA1` SKNP Vx: skip if key not pressed (R192). -/
  | sknp (x : Reg)
  /-- `FX07` LD Vx, DT: read the delay timer (R201). -/
  | ldVxDt (x : Reg)
  /-- `FX0A` LD Vx, K: wait for a key (R193). -/
  | ldVxK (x : Reg)
  /-- `FX15` LD DT, Vx: set the delay timer (R202). -/
  | ldDtVx (x : Reg)
  /-- `FX18` LD ST, Vx: set the sound timer (R203). -/
  | ldStVx (x : Reg)
  /-- `FX1E` ADD I, Vx: add register to index (R173). -/
  | addI (x : Reg)
  /-- `FX29` LD F, Vx: point `I` at a font glyph (R174). -/
  | ldF (x : Reg)
  /-- `FX33` LD B, Vx: store decimal digits (R211). -/
  | ldB (x : Reg)
  /-- `FX55` LD [I], Vx: store `V0` to `V[X]` (R212). -/
  | stRegs (x : Reg)
  /-- `FX65` LD Vx, [I]: load `V0` to `V[X]` (R213). -/
  | ldRegs (x : Reg)
deriving DecidableEq, Repr

end Sys2Proof
end

