-- ==== Sys2Proof/WellFormed.lean ====
section
/-! DEFINITION. The checks of the spec on what may be presented to the machine.

An `Instr` needs no check: its operands have the exact widths of their fields and R106 says that operand values never make a
legal pattern illegal. What can be ill-formed is a 16-bit WORD (it may match no row of the opcode table, R100, R104),
a CONFIGURATION (R8, and the ranges R6 gives the two timing parameters) and a program IMAGE (R8, R271). -/

namespace Sys2Proof

/-- One row of the opcode table of R100: a word `op` is the instruction exactly when `op & mask = pat`. -/
structure OpcodeRow where
  mnemonic : String
  pat : Word
  mask : Word
deriving DecidableEq, Repr

/-- Rows 1 to 9 of R100. -/
def opcodeRowsA : List OpcodeRow :=
  [⟨"CLS", 0x00E0#16, 0xFFFF#16⟩, ⟨"RET", 0x00EE#16, 0xFFFF#16⟩, ⟨"JP_NNN", 0x1000#16, 0xF000#16⟩,
   ⟨"CALL_NNN", 0x2000#16, 0xF000#16⟩, ⟨"SE_Vx__NN", 0x3000#16, 0xF000#16⟩, ⟨"SNE_Vx__NN", 0x4000#16, 0xF000#16⟩,
   ⟨"SE_Vx__Vy", 0x5000#16, 0xF00F#16⟩, ⟨"LD_Vx__NN", 0x6000#16, 0xF000#16⟩, ⟨"ADD_Vx__NN", 0x7000#16, 0xF000#16⟩]

/-- Rows 10 to 19 of R100: the ALU group and `9XY0`. -/
def opcodeRowsB : List OpcodeRow :=
  [⟨"LD_Vx__Vy", 0x8000#16, 0xF00F#16⟩, ⟨"OR_Vx__Vy", 0x8001#16, 0xF00F#16⟩, ⟨"AND_Vx__Vy", 0x8002#16, 0xF00F#16⟩,
   ⟨"XOR_Vx__Vy", 0x8003#16, 0xF00F#16⟩, ⟨"ADD_Vx__Vy", 0x8004#16, 0xF00F#16⟩, ⟨"SUB_Vx__Vy", 0x8005#16, 0xF00F#16⟩,
   ⟨"SHR_Vx__Vy", 0x8006#16, 0xF00F#16⟩, ⟨"SUBN_Vx__Vy", 0x8007#16, 0xF00F#16⟩, ⟨"SHL_Vx__Vy", 0x800E#16, 0xF00F#16⟩,
   ⟨"SNE_Vx__Vy", 0x9000#16, 0xF00F#16⟩]

/-- Rows 20 to 25 of R100. -/
def opcodeRowsC : List OpcodeRow :=
  [⟨"LD_I__NNN", 0xA000#16, 0xF000#16⟩, ⟨"JP_V0__NNN", 0xB000#16, 0xF000#16⟩, ⟨"RND_Vx__NN", 0xC000#16, 0xF000#16⟩,
   ⟨"DRW_Vx__Vy__N", 0xD000#16, 0xF000#16⟩, ⟨"SKP_Vx", 0xE09E#16, 0xF0FF#16⟩, ⟨"SKNP_Vx", 0xE0A1#16, 0xF0FF#16⟩]

/-- Rows 26 to 34 of R100. -/
def opcodeRowsD : List OpcodeRow :=
  [⟨"LD_Vx__DT", 0xF007#16, 0xF0FF#16⟩, ⟨"LD_Vx__K", 0xF00A#16, 0xF0FF#16⟩, ⟨"LD_DT__Vx", 0xF015#16, 0xF0FF#16⟩,
   ⟨"LD_ST__Vx", 0xF018#16, 0xF0FF#16⟩, ⟨"ADD_I__Vx", 0xF01E#16, 0xF0FF#16⟩, ⟨"LD_F__Vx", 0xF029#16, 0xF0FF#16⟩,
   ⟨"LD_B__Vx", 0xF033#16, 0xF0FF#16⟩, ⟨"LD__I___Vx", 0xF055#16, 0xF0FF#16⟩, ⟨"LD_Vx___I", 0xF065#16, 0xF0FF#16⟩]

/-- The opcode table of R100, 34 rows. -/
def opcodeTable : List OpcodeRow := opcodeRowsA ++ opcodeRowsB ++ opcodeRowsC ++ opcodeRowsD

/-- The row of R100 that an instruction comes from. -/
def rowOf : Instr → OpcodeRow
  | .cls => ⟨"CLS", 0x00E0#16, 0xFFFF#16⟩
  | .ret => ⟨"RET", 0x00EE#16, 0xFFFF#16⟩
  | .jp _ => ⟨"JP_NNN", 0x1000#16, 0xF000#16⟩
  | .call _ => ⟨"CALL_NNN", 0x2000#16, 0xF000#16⟩
  | .seImm _ _ => ⟨"SE_Vx__NN", 0x3000#16, 0xF000#16⟩
  | .sneImm _ _ => ⟨"SNE_Vx__NN", 0x4000#16, 0xF000#16⟩
  | .seReg _ _ => ⟨"SE_Vx__Vy", 0x5000#16, 0xF00F#16⟩
  | .ldImm _ _ => ⟨"LD_Vx__NN", 0x6000#16, 0xF000#16⟩
  | .addImm _ _ => ⟨"ADD_Vx__NN", 0x7000#16, 0xF000#16⟩
  | .ldReg _ _ => ⟨"LD_Vx__Vy", 0x8000#16, 0xF00F#16⟩
  | .orReg _ _ => ⟨"OR_Vx__Vy", 0x8001#16, 0xF00F#16⟩
  | .andReg _ _ => ⟨"AND_Vx__Vy", 0x8002#16, 0xF00F#16⟩
  | .xorReg _ _ => ⟨"XOR_Vx__Vy", 0x8003#16, 0xF00F#16⟩
  | .addReg _ _ => ⟨"ADD_Vx__Vy", 0x8004#16, 0xF00F#16⟩
  | .sub _ _ => ⟨"SUB_Vx__Vy", 0x8005#16, 0xF00F#16⟩
  | .shr _ _ => ⟨"SHR_Vx__Vy", 0x8006#16, 0xF00F#16⟩
  | .subn _ _ => ⟨"SUBN_Vx__Vy", 0x8007#16, 0xF00F#16⟩
  | .shl _ _ => ⟨"SHL_Vx__Vy", 0x800E#16, 0xF00F#16⟩
  | .sneReg _ _ => ⟨"SNE_Vx__Vy", 0x9000#16, 0xF00F#16⟩
  | .ldI _ => ⟨"LD_I__NNN", 0xA000#16, 0xF000#16⟩
  | .jpV0 _ => ⟨"JP_V0__NNN", 0xB000#16, 0xF000#16⟩
  | .rnd _ _ => ⟨"RND_Vx__NN", 0xC000#16, 0xF000#16⟩
  | .drw _ _ _ => ⟨"DRW_Vx__Vy__N", 0xD000#16, 0xF000#16⟩
  | .skp _ => ⟨"SKP_Vx", 0xE09E#16, 0xF0FF#16⟩
  | .sknp _ => ⟨"SKNP_Vx", 0xE0A1#16, 0xF0FF#16⟩
  | .ldVxDt _ => ⟨"LD_Vx__DT", 0xF007#16, 0xF0FF#16⟩
  | .ldVxK _ => ⟨"LD_Vx__K", 0xF00A#16, 0xF0FF#16⟩
  | .ldDtVx _ => ⟨"LD_DT__Vx", 0xF015#16, 0xF0FF#16⟩
  | .ldStVx _ => ⟨"LD_ST__Vx", 0xF018#16, 0xF0FF#16⟩
  | .addI _ => ⟨"ADD_I__Vx", 0xF01E#16, 0xF0FF#16⟩
  | .ldF _ => ⟨"LD_F__Vx", 0xF029#16, 0xF0FF#16⟩
  | .ldB _ => ⟨"LD_B__Vx", 0xF033#16, 0xF0FF#16⟩
  | .stRegs _ => ⟨"LD__I___Vx", 0xF055#16, 0xF0FF#16⟩
  | .ldRegs _ => ⟨"LD_Vx___I", 0xF065#16, 0xF0FF#16⟩

/-- The word is the instruction of the row. -/
def OpcodeRow.matches (r : OpcodeRow) (op : Word) : Bool := op &&& r.mask == r.pat

/-- A legal word matches a row of the table; every other word is illegal (R104). -/
def legalWord (op : Word) : Bool := opcodeTable.any (·.matches op)

/-- The first three constraints of R8: `LOAD_ADDR` in {0x200, 0x600}, `STACK_DEPTH` in {12, 16} and
`FONT_BASE + 80 <= LOAD_ADDR` (the sum is not reduced: R12). -/
def Config.legal (c : Config) : Bool :=
  (c.loadAddr == 0x200#16 || c.loadAddr == 0x600#16)
    && (c.stackDepth == 12 || c.stackDepth == 16)
    && decide (c.fontBase.toNat + 80 ≤ c.loadAddr.toNat)

/-- The ranges R6 gives the timing parameters: `IPS` in 1..100000 and `CLK_HZ >= max(60, IPS)`. Reset does not check them
(R8 lists neither; DEDUCED: notes/assumptions/13.md); only the clock divider of R284 reads them. -/
def Config.timingLegal (c : Config) : Bool :=
  decide (1 ≤ c.ips ∧ c.ips ≤ 100000 ∧ 60 ≤ c.clkHz ∧ c.ips ≤ c.clkHz)

/-- The fourth constraint of R8: the image is at most `4096 - LOAD_ADDR` bytes long. -/
def Config.imageFits (c : Config) (image : List Byte) : Bool := decide (c.loadAddr.toNat + image.length ≤ 4096)

end Sys2Proof
end

