-- ==== Sys2Proof/Decode.lean ====
section
/-! DEFINITION. Instruction decode and its inverse (spec 30_encoding.md R90 to R110): from a 16-bit word, and from the
bytes of memory, to an instruction or to a named verdict *illegal*; and from an instruction to its word and bytes. -/

namespace Sys2Proof

/-- Why a word or a sequence of bytes is no instruction. The six `illegal` verdicts are the groups of R104's table; each
carries the word. `truncated`: fewer than the two bytes every instruction has (R91). -/
inductive DecodeError where
  | illegal0NNN (op : Word)
  | illegal5XYN (op : Word)
  | illegal8XYN (op : Word)
  | illegal9XYN (op : Word)
  | illegalEXNN (op : Word)
  | illegalFXNN (op : Word)
  | truncated
deriving DecidableEq, Repr

/-- `n0 = op[15:12]`, the major opcode (R11, R92). -/
def fieldN0 (op : Word) : Nibble := op.extractLsb' 12 4

/-- `X = op[11:8]` (R11, R92). -/
def fieldX (op : Word) : Reg := op.extractLsb' 8 4

/-- `Y = op[7:4]` (R11, R92). -/
def fieldY (op : Word) : Reg := op.extractLsb' 4 4

/-- `N = op[3:0]` (R11, R92). -/
def fieldN (op : Word) : Nibble := op.extractLsb' 0 4

/-- `NN = op[7:0]` (R11, R92). -/
def fieldNN (op : Word) : Byte := op.extractLsb' 0 8

/-- `NNN = op[11:0]` (R11, R92). -/
def fieldNNN (op : Word) : Imm12 := op.extractLsb' 0 12

/-- The ALU group `8XY_`, dispatched on the last nibble (R95). -/
def decodeAlu (op : Word) : Except DecodeError Instr :=
  match fieldN op with
  | 0x0#4 => .ok (.ldReg (fieldX op) (fieldY op))
  | 0x1#4 => .ok (.orReg (fieldX op) (fieldY op))
  | 0x2#4 => .ok (.andReg (fieldX op) (fieldY op))
  | 0x3#4 => .ok (.xorReg (fieldX op) (fieldY op))
  | 0x4#4 => .ok (.addReg (fieldX op) (fieldY op))
  | 0x5#4 => .ok (.sub (fieldX op) (fieldY op))
  | 0x6#4 => .ok (.shr (fieldX op) (fieldY op))
  | 0x7#4 => .ok (.subn (fieldX op) (fieldY op))
  | 0xE#4 => .ok (.shl (fieldX op) (fieldY op))
  | _ => .error (.illegal8XYN op)

/-- The key group `EX__`, dispatched on `NN` (R95). -/
def decodeKey (op : Word) : Except DecodeError Instr :=
  match fieldNN op with
  | 0x9E#8 => .ok (.skp (fieldX op))
  | 0xA1#8 => .ok (.sknp (fieldX op))
  | _ => .error (.illegalEXNN op)

/-- The group `FX__`, dispatched on `NN` (R95). -/
def decodeMisc (op : Word) : Except DecodeError Instr :=
  match fieldNN op with
  | 0x07#8 => .ok (.ldVxDt (fieldX op))
  | 0x0A#8 => .ok (.ldVxK (fieldX op))
  | 0x15#8 => .ok (.ldDtVx (fieldX op))
  | 0x18#8 => .ok (.ldStVx (fieldX op))
  | 0x1E#8 => .ok (.addI (fieldX op))
  | 0x29#8 => .ok (.ldF (fieldX op))
  | 0x33#8 => .ok (.ldB (fieldX op))
  | 0x55#8 => .ok (.stRegs (fieldX op))
  | 0x65#8 => .ok (.ldRegs (fieldX op))
  | _ => .error (.illegalFXNN op)

/-- `Decode(op)` of R95: total on all 65536 words. -/
def decode (op : Word) : Except DecodeError Instr :=
  match fieldN0 op with
  | 0x0#4 => if op = 0x00E0#16 then .ok .cls else if op = 0x00EE#16 then .ok .ret else .error (.illegal0NNN op)
  | 0x1#4 => .ok (.jp (fieldNNN op))
  | 0x2#4 => .ok (.call (fieldNNN op))
  | 0x3#4 => .ok (.seImm (fieldX op) (fieldNN op))
  | 0x4#4 => .ok (.sneImm (fieldX op) (fieldNN op))
  | 0x5#4 => if fieldN op = 0x0#4 then .ok (.seReg (fieldX op) (fieldY op)) else .error (.illegal5XYN op)
  | 0x6#4 => .ok (.ldImm (fieldX op) (fieldNN op))
  | 0x7#4 => .ok (.addImm (fieldX op) (fieldNN op))
  | 0x8#4 => decodeAlu op
  | 0x9#4 => if fieldN op = 0x0#4 then .ok (.sneReg (fieldX op) (fieldY op)) else .error (.illegal9XYN op)
  | 0xA#4 => .ok (.ldI (fieldNNN op))
  | 0xB#4 => .ok (.jpV0 (fieldNNN op))
  | 0xC#4 => .ok (.rnd (fieldX op) (fieldNN op))
  | 0xD#4 => .ok (.drw (fieldX op) (fieldY op) (fieldN op))
  | 0xE#4 => decodeKey op
  | _ => decodeMisc op

/-- The word two successive bytes form: big-endian, the first byte is bits 15..8 (20_memory.md R64). -/
def wordOfBytes (hi lo : Byte) : Word := hi ++ lo

/-- Decode from a sequence of bytes, as they lie in memory at rising addresses: the instruction and the bytes after it.
Every instruction is two bytes (R91), big-endian (R90). -/
def decodeBytes : List Byte → Except DecodeError (Instr × List Byte)
  | hi :: lo :: rest =>
    match decode (wordOfBytes hi lo) with
    | .ok i => .ok (i, rest)
    | .error e => .error e
  | _ => .error .truncated

/-- The word of an instruction, each row written from R100's pattern: the fixed nibbles and the operand fields in their
places, most significant first (R92, R110). -/
def encode : Instr → Word
  | .cls => 0x00E0#16
  | .ret => 0x00EE#16
  | .jp nnn => 0x1#4 ++ nnn
  | .call nnn => 0x2#4 ++ nnn
  | .seImm x nn => 0x3#4 ++ x ++ nn
  | .sneImm x nn => 0x4#4 ++ x ++ nn
  | .seReg x y => 0x5#4 ++ x ++ y ++ 0x0#4
  | .ldImm x nn => 0x6#4 ++ x ++ nn
  | .addImm x nn => 0x7#4 ++ x ++ nn
  | .ldReg x y => 0x8#4 ++ x ++ y ++ 0x0#4
  | .orReg x y => 0x8#4 ++ x ++ y ++ 0x1#4
  | .andReg x y => 0x8#4 ++ x ++ y ++ 0x2#4
  | .xorReg x y => 0x8#4 ++ x ++ y ++ 0x3#4
  | .addReg x y => 0x8#4 ++ x ++ y ++ 0x4#4
  | .sub x y => 0x8#4 ++ x ++ y ++ 0x5#4
  | .shr x y => 0x8#4 ++ x ++ y ++ 0x6#4
  | .subn x y => 0x8#4 ++ x ++ y ++ 0x7#4
  | .shl x y => 0x8#4 ++ x ++ y ++ 0xE#4
  | .sneReg x y => 0x9#4 ++ x ++ y ++ 0x0#4
  | .ldI nnn => 0xA#4 ++ nnn
  | .jpV0 nnn => 0xB#4 ++ nnn
  | .rnd x nn => 0xC#4 ++ x ++ nn
  | .drw x y n => 0xD#4 ++ x ++ y ++ n
  | .skp x => 0xE#4 ++ x ++ 0x9E#8
  | .sknp x => 0xE#4 ++ x ++ 0xA1#8
  | .ldVxDt x => 0xF#4 ++ x ++ 0x07#8
  | .ldVxK x => 0xF#4 ++ x ++ 0x0A#8
  | .ldDtVx x => 0xF#4 ++ x ++ 0x15#8
  | .ldStVx x => 0xF#4 ++ x ++ 0x18#8
  | .addI x => 0xF#4 ++ x ++ 0x1E#8
  | .ldF x => 0xF#4 ++ x ++ 0x29#8
  | .ldB x => 0xF#4 ++ x ++ 0x33#8
  | .stRegs x => 0xF#4 ++ x ++ 0x55#8
  | .ldRegs x => 0xF#4 ++ x ++ 0x65#8

/-- `op[15:8]` and `op[7:0]`, in the order they lie in memory (R110). -/
def bytesOfWord (op : Word) : Byte × Byte := (op.extractLsb' 8 8, op.extractLsb' 0 8)

/-- The two bytes of an instruction, in the order they lie in memory (R110). -/
def encodeBytes (i : Instr) : List Byte := [(bytesOfWord (encode i)).1, (bytesOfWord (encode i)).2]

/-- The word of an instruction given by its low `nbits` bits, numbered as the opcode table numbers them; the bits above are 0. -/
def tableWord (nbits w : Nat) : Word := BitVec.ofNat 16 (w % 2 ^ nbits)

/-- What the decoder reads from an instruction whose bits are `w`, numbered as spec/opcode_table.json numbers them: the word
is laid out as the hardware stores it, high byte first, and decoded from those bytes. -/
def decodeTableWord (nbits w : Nat) : Option Instr :=
  match decodeBytes [(bytesOfWord (tableWord nbits w)).1, (bytesOfWord (tableWord nbits w)).2] with
  | .ok (i, _) => some i
  | .error _ => none

end Sys2Proof
end

