-- ==== Sys2Proof/Machine/Memory.lean ====
section
/-! DEFINITION. The memory of the CHIP-8 CORE (spec 20_memory.md R60 to R71, 70_reset_and_hazards.md R271 to R273): one
address space of 4096 bytes, held as the list of the bytes that differ from the reset contents, in one canonical form. The
reset contents are the font at `FONT_BASE` and 0x00 everywhere else; where the font lies is a strap, so every
operation takes `FONT_BASE` as an argument. -/

namespace Sys2Proof.Machine

/-- Glyphs 0 to 7 of the font table of R272, five bytes each. -/
def glyphs0To7 : List (List Byte) :=
  [[0xF0#8, 0x90#8, 0x90#8, 0x90#8, 0xF0#8], [0x20#8, 0x60#8, 0x20#8, 0x20#8, 0x70#8],
   [0xF0#8, 0x10#8, 0xF0#8, 0x80#8, 0xF0#8], [0xF0#8, 0x10#8, 0xF0#8, 0x10#8, 0xF0#8],
   [0x90#8, 0x90#8, 0xF0#8, 0x10#8, 0x10#8], [0xF0#8, 0x80#8, 0xF0#8, 0x10#8, 0xF0#8],
   [0xF0#8, 0x80#8, 0xF0#8, 0x90#8, 0xF0#8], [0xF0#8, 0x10#8, 0x20#8, 0x40#8, 0x40#8]]

/-- Glyphs 8 to F of the font table of R272. -/
def glyphs8ToF : List (List Byte) :=
  [[0xF0#8, 0x90#8, 0xF0#8, 0x90#8, 0xF0#8], [0xF0#8, 0x90#8, 0xF0#8, 0x10#8, 0xF0#8],
   [0xF0#8, 0x90#8, 0xF0#8, 0x90#8, 0x90#8], [0xE0#8, 0x90#8, 0xE0#8, 0x90#8, 0xE0#8],
   [0xF0#8, 0x80#8, 0x80#8, 0x80#8, 0xF0#8], [0xE0#8, 0x90#8, 0x90#8, 0x90#8, 0xE0#8],
   [0xF0#8, 0x80#8, 0xF0#8, 0x80#8, 0xF0#8], [0xF0#8, 0x80#8, 0xF0#8, 0x80#8, 0x80#8]]

/-- The 80 font bytes in address order (R272). -/
def fontBytes : List Byte := (glyphs0To7 ++ glyphs8ToF).flatten

/-- What an address that is not listed reads as: the reset contents, that is the font byte at
`FONT_BASE .. FONT_BASE + 79` (R272) and 0x00 elsewhere (R273). -/
def unlistedByte (fontBase a : Nat) : Byte :=
  if fontBase ≤ a ∧ a < fontBase + 80 then fontBytes.getD (a - fontBase) 0x00#8 else 0x00#8

/-- The bytes of `mem[0 .. 4095]` (10_state.md R34) that differ from the reset contents, as (address, byte) pairs. -/
abbrev Memory := List Host.Cell

/-- The canonical form: addresses strictly rising, each inside the address space, and no entry equal to what its
address reads as unlisted. Equal memories are then equal lists. -/
abbrev Memory.wf (fontBase : Nat) (m : Memory) : Prop :=
  m.Pairwise (fun c d => c.1 < d.1) ∧ ∀ c ∈ m, c.1 < 4096 ∧ c.2 ≠ unlistedByte fontBase c.1

/-- The byte at an address of the address space (the data part of `MemRead`, R62; its bounds check is made before, R69). -/
def Memory.read (fontBase : Nat) (m : Memory) (a : Nat) : Byte := (m.lookup a).getD (unlistedByte fontBase a)

/-- Puts the entry `(a, b)` in its place in a rising list, in the stead of an entry for `a`. -/
def Memory.put (a : Nat) (b : Byte) : Memory → Memory
  | [] => [(a, b)]
  | c :: m => if a < c.1 then (a, b) :: c :: m else if a = c.1 then (a, b) :: m else c :: Memory.put a b m

/-- Takes the entry for `a` out. -/
def Memory.drop (a : Nat) (m : Memory) : Memory := m.filter (fun c => c.1 != a)

/-- The write of one byte (the data part of `MemWrite`, R63), keeping the canonical form. There is no byte above 4095: every
caller has made the bounds check of R69 before (DESIGN CHOICE, safe: notes/assumptions/17.md). -/
def Memory.write (fontBase : Nat) (m : Memory) (a : Nat) (b : Byte) : Memory :=
  if 4095 < a then m else if b = unlistedByte fontBase a then Memory.drop a m else Memory.put a b m

/-- Places successive bytes at rising addresses from `a` on (the program image, R271). -/
def Memory.place (fontBase : Nat) (m : Memory) (a : Nat) : List Byte → Memory
  | [] => m
  | b :: bs => Memory.place fontBase (Memory.write fontBase m a b) (a + 1) bs

end Sys2Proof.Machine
end

