-- ==== Sys2Proof/Machine/Screen.lean ====
section
/-! DEFINITION. The display buffer as data (spec 10_state.md R35, R36): a 64 x 32 grid of one-bit pixels, 32 rows of 64 bits.
The bit `x` of row `y` is `disp[y][x]`; the linear order of R36 is computed from it. -/

namespace Sys2Proof.Machine

/-- A whole picture: the display buffer, or a snapshot of it in the frame slot. -/
abbrev Frame := Vector (BitVec 64) 32

/-- All 2048 pixels 0. -/
def blankFrame : Frame := Vector.replicate 32 0x0#64

/-- `disp[y][x]`; a position off the grid has no pixel and reads as unset. -/
def pixel (f : Frame) (x y : Nat) : Bool := (f[y]?.getD 0x0#64).getLsbD x

/-- `disp[y][x] <- disp[y][x] ^ 1`; a position off the grid has no pixel. -/
def togglePixel (f : Frame) (x y : Nat) : Frame := f.setIfInBounds y (f[y]?.getD 0x0#64 ^^^ BitVec.twoPow 64 x)

/-- Bit `k` of the 2048-bit snapshot in row-major order: bit `64 * y + x` is `disp[y][x]` (R36, R247). -/
def frameBit (f : Frame) (k : Nat) : Bool := pixel f (k % 64) (k / 64)

end Sys2Proof.Machine
end

