-- ==== Sys2Proof/Machine/State.lean ====
section
/-! DEFINITION. The state of the CHIP-8 CORE as plain data (spec 10_state.md R20 to R48): everything the hardware remembers
from one step to the next, the inputs it samples, the straps it sampled at reset, and the script of agent steps still
to come (the model's own field). And the machine right after reset. -/

namespace Sys2Proof.Machine

/-- `RUN`, the Engine's run state (R39). -/
inductive RunState where
  /-- `Exec` steps are enabled. -/
  | running
  /-- The Engine is suspended by `FX0A`; only `Wake` is enabled for it. -/
  | waitKey
  /-- A fault was taken; no Engine step and no `Tick` is enabled. -/
  | halted
deriving DecidableEq, Repr

/-- `fault_kind` (R42; codes in 60_exceptions.md R221, given by `faultKindCode`; DESIGN CHOICE, safe: notes/assumptions/11.md). -/
inductive FaultKind where
  /-- Code 0: no fault. -/
  | none
  /-- Code 1, `DecodeFault`: the fetched word matches no row of the opcode table. -/
  | decode
  /-- Code 2, `MemBounds`: an address the step needs exceeds 4095. -/
  | memBounds
  /-- Code 3, `StackOverflow`: `2NNN` with a full stack. -/
  | stackOverflow
  /-- Code 4, `StackUnderflow`: `00EE` with an empty stack. -/
  | stackUnderflow
  /-- Code 5, `LoadFault`: reset with an image that does not fit or an illegal configuration. -/
  | loadFault
deriving DecidableEq, Repr

/-- `fault_op` (R42; codes in 60_exceptions.md R221): the kind of memory operation that went out of bounds. -/
inductive FaultOp where
  /-- Code 0: not a memory operation. -/
  | none
  /-- Code 1: the instruction fetch. -/
  | fetch
  /-- Code 2: a data read (`DXYN`, `FX65`). -/
  | read
  /-- Code 3: a data write (`FX33`, `FX55`). -/
  | write
deriving DecidableEq, Repr

/-- One atomic step of one of the agents of 00_scope.md R15, as the script names it (DESIGN CHOICE: notes/assumptions/4.md; `Reset` as
one step: 16.md). -/
inductive AgentStep where
  /-- The Engine's step: `Exec` when running (R16), `Wake` when waiting for a key (46_keypad.md R194). -/
  | engine
  /-- The timer driver's `Tick` (60_exceptions.md R241). -/
  | tick
  /-- The input collaborator's `SetKeys(k)`. -/
  | setKeys (k : Word)
  /-- The render collaborator's `Take` (60_exceptions.md R249). -/
  | take
  /-- The host's `Reset(config, image)` (70_reset_and_hazards.md R270). -/
  | reset (config : Config) (image : List Byte)
  /-- One rising edge of `clk`, through the reference divider (70_reset_and_hazards.md R284). -/
  | clockEdge
deriving DecidableEq, Repr

/-- Why a step of the model ends with no next state. -/
inductive Fault where
  /-- Raised by `step` when `RUN = HALTED` and the script is empty: the machine is dead until the next reset
  (60_exceptions.md R228, R231; 93_implementation_defined.md U18, "stuck"), and no reset is coming. It carries `fault_kind`.
  Safe: the spec enables no step here. TAKING a fault is no `Fault` of the model: it is a next state with the fault
  registers written and `RUN = HALTED`. -/
  | halted (kind : FaultKind)
deriving DecidableEq, Repr

/-- Why an instruction is given no meaning. -/
inductive Refusal where
  /-- Raised by an arm of `exec` for an instruction without a meaning, which carries its mnemonic. Safe. No arm raises it: all 34
  rows of the opcode table have their meaning. -/
  | notModelled (mnemonic : String)
deriving DecidableEq, Repr

/-- The state of the machine. -/
structure State where
  /-- `V0`..`VF`, 16 x 8 bits (R20). -/
  v : Vector Byte 16
  /-- `I`, the index register, 16 bits (R24). -/
  i : Word
  /-- `PC`, 16 bits: during an `Exec` step the address of the executing instruction (R25). -/
  pc : Word
  /-- `DT`, the delay timer, 8 bits (R28). -/
  dt : Byte
  /-- `ST`, the sound timer, 8 bits (R28). -/
  st : Byte
  /-- The valid stack entries `stack[0 .. SP-1]`, oldest first (R29, R30). `SP` is their number (`State.sp`); R30 lets a model
  leave the content of the entries at `SP` and above unspecified, and it keeps none (DESIGN CHOICE, safe: notes/assumptions/7.md). -/
  stack : List Word
  /-- `mem[0 .. 4095]` (R34), as its difference from the reset contents (DESIGN CHOICE, safe: notes/assumptions/8.md). -/
  mem : Memory
  /-- `disp`, 64 x 32 pixels (R35; DESIGN CHOICE, safe: notes/assumptions/10.md). -/
  disp : Frame
  /-- `keys`, the keypad snapshot, an input: bit `k` is key `k` (R37). -/
  keys : Word
  /-- `rnd`, the random input (R38): the bytes the environment has supplied for the coming draws, next draw first (R172, "a test
  harness supplies the sequence"). When it is empty, a draw is a free value (DESIGN CHOICE: notes/assumptions/3.md). -/
  rnd : List Byte
  /-- The model's own: how many free draws there have been; the free value is `Config.rndInput` of this number. -/
  draws : Nat
  /-- `RUN` (R39). -/
  run : RunState
  /-- `wait_x`, 4 bits: the destination of the `FX0A` that is waiting (R40). -/
  waitX : Reg
  /-- `fc_frame`, 2048 bits: the last published snapshot (R41). -/
  fcFrame : Frame
  /-- `fc_pending`: a snapshot is published and not yet taken (R41). -/
  fcPending : Bool
  /-- `fault_kind`, 3 bits (R42). -/
  faultKind : FaultKind
  /-- `fault_pc`, 16 bits (R42). -/
  faultPc : Word
  /-- `fault_opcode`, 16 bits (R42). -/
  faultOpcode : Word
  /-- `fault_op`, 2 bits (R42). -/
  faultOp : FaultOp
  /-- `fault_addr`, 17 bits (R42). -/
  faultAddr : BitVec 17
  /-- The configuration straps, sampled at reset (R43). -/
  cfg : Config
  /-- `tdiv`, the tick accumulator of the reference divider (R44, 70_reset_and_hazards.md R284), a number of any size (DESIGN CHOICE:
notes/assumptions/15.md). -/
  tdiv : Nat
  /-- `idiv`, the instruction accumulator of the reference divider (R44, 70_reset_and_hazards.md R284). -/
  idiv : Nat
  /-- The model's own: the agent steps still to come, next first; when it is empty, the Engine moves. Over all values of this
  field every interleaving of the agents is a run of the model (00_scope.md R17; DESIGN CHOICE: notes/assumptions/4.md). -/
  script : List AgentStep
deriving DecidableEq, Repr

/-- The machine right after `Reset(config, image)` with the configuration `Config.standard` and an empty image: every field
at the value of R48, memory at its reset contents (nothing listed). `keys` and `rnd` are inputs that reset does not
write; that no key is down, that no random byte has been supplied and that no other agent's step is scheduled are DESIGN
CHOICES, unsafe (notes/assumptions/2.md, 3.md, 4.md). -/
def State.reset : State where
  v := Vector.replicate 16 0x00#8
  i := 0x0000#16
  pc := Config.standard.loadAddr
  dt := 0x00#8
  st := 0x00#8
  stack := []
  mem := []
  disp := blankFrame
  keys := 0x0000#16
  rnd := []
  draws := 0
  run := .running
  waitX := 0x0#4
  fcFrame := blankFrame
  fcPending := false
  faultKind := .none
  faultPc := 0x0000#16
  faultOpcode := 0x0000#16
  faultOp := .none
  faultAddr := 0x0#17
  cfg := Config.standard
  tdiv := 0
  idiv := 0
  script := []

end Sys2Proof.Machine
end

