-- ==== Sys2Proof/Machine/Ops.lean ====
section
/-! DEFINITION. The named operations of the spec over the state (00_scope.md R12): registers, memory, the stack, the display and
the frame slot, instruction fetch, the outputs, and TAKING A FAULT, which is this hardware's one exception. There is no
return from a fault (60_exceptions.md R231): only `Reset` leaves `HALTED` (Machine/Boot.lean). -/

namespace Sys2Proof.Machine

/-- What one step of this machine answers. -/
abbrev Result := Host.Outcome State Fault Refusal

/-- Goes on from a next state and passes a fault or a refusal through. -/
def andThen (o : Result) (f : State → Result) : Result :=
  match o with
  | .next s => f s
  | .fault r => .fault r
  | .refused r => .refused r

/-! ### Registers -/

/-- `V[x]` (R20, R21: no register is hardwired). -/
def State.getV (s : State) (x : Reg) : Byte := s.v[x.toNat]'x.isLt

/-- `V[x] <- b`. -/
def State.setV (s : State) (x : Reg) (b : Byte) : State := { s with v := s.v.set x.toNat b x.isLt }

/-- `I <- w`. -/
def State.setI (s : State) (w : Word) : State := { s with i := w }

/-- `DT <- b`. -/
def State.setDt (s : State) (b : Byte) : State := { s with dt := b }

/-- `ST <- b`. -/
def State.setSt (s : State) (b : Byte) : State := { s with st := b }

/-- `PC <- w` (R26: a control transfer sets `PC` and adds nothing). -/
def State.jumpTo (s : State) (w : Word) : State := { s with pc := w }

/-- `PC <- PC + 2` (R26: every instruction that is neither a control transfer nor a skip). -/
def State.advance (s : State) : State := { s with pc := s.pc + 2#16 }

/-- `PC <- PC + 4` when the condition holds, `PC <- PC + 2` otherwise (R26, 41_skips.md R130). -/
def State.skipIf (s : State) (c : Bool) : State := { s with pc := if c then s.pc + 4#16 else s.pc + 2#16 }

/-! ### Memory -/

/-- `mem[a]` (20_memory.md R62; a read has no side effect). -/
def State.byteAt (s : State) (a : Nat) : Byte := s.mem.read s.cfg.fontBase.toNat a

/-- `mem[a] <- b`, one byte and nothing else (20_memory.md R63). -/
def State.setByte (s : State) (a : Nat) (b : Byte) : State :=
  { s with mem := s.mem.write s.cfg.fontBase.toNat a b }

/-- The bytes at `a`, `a + 1`, ..., `n` of them (20_memory.md R65: rising addresses). -/
def State.bytesFrom (s : State) (a n : Nat) : List Byte := (List.range n).map (fun k => s.byteAt (a + k))

/-- The two-byte fetch, big-endian, at `PC`: the word, or the lowest address out of bounds
(20_memory.md R62, R64, R66; 30_encoding.md R90). -/
def fetch (s : State) : Except Nat Word :=
  if 4095 < s.pc.toNat then .error s.pc.toNat
  else if 4095 < s.pc.toNat + 1 then .error (s.pc.toNat + 1)
  else .ok (wordOfBytes (s.byteAt s.pc.toNat) (s.byteAt (s.pc.toNat + 1)))

/-! ### Stack -/

/-- `SP`, the number of valid entries (10_state.md R30). -/
def State.sp (s : State) : Nat := s.stack.length

/-- The stack writes of `Push(v)` (10_state.md R31), made when `SP != STACK_DEPTH`. -/
def State.push (s : State) (w : Word) : State := { s with stack := s.stack ++ [w] }

/-- The stack write of `Pop()` (10_state.md R32), made when `SP != 0`; the value popped is the last entry. -/
def State.dropTop (s : State) : State := { s with stack := s.stack.dropLast }

/-! ### Display and frame slot -/

/-- `disp <- f`. -/
def State.setDisp (s : State) (f : Frame) : State := { s with disp := f }

/-- `Publish()` (60_exceptions.md R247): never waits, never fails, overwrites an undelivered frame (R248). -/
def State.publish (s : State) : State := { s with fcFrame := s.disp, fcPending := true }

/-- What the renderer receives from a `Take` (60_exceptions.md R249), if one is enabled. -/
def State.frameOffered (s : State) : Option Frame := if s.fcPending then some s.fcFrame else none

/-- `Take` (60_exceptions.md R249), enabled whenever `fc_pending = 1`; where it is not enabled nothing changes. -/
def State.take (s : State) : State := { s with fcPending := false }

/-! ### Random input -/

/-- The byte `rnd` shows to this draw (10_state.md R38): the next byte the environment has supplied, else a free value. -/
def State.rndByte (s : State) : Byte := s.rnd.headD (Config.rndInput s.draws)

/-- The draw is used up: one draw per execution of `CXNN` (44_index_and_random.md R172). -/
def State.consumeRnd (s : State) : State :=
  match s.rnd with
  | [] => { s with draws := s.draws + 1 }
  | _ :: rest => { s with rnd := rest }

/-! ### Faults -/

/-- FAULT ENTRY (60_exceptions.md R228): the fault registers are written, `RUN <- HALTED`, and nothing else changes. `fault_pc` is `PC`,
the address of the faulting instruction, and `PC` keeps it (R229). `opcode` is the fetched word, or 0 when the fetch itself
faulted or there was none; a meaning gives the encoding of its instruction, which is that word (DEDUCED, safe:
notes/assumptions/9.md). A fault taken is a next state (notes/assumptions/6.md). -/
def raise (kind : FaultKind) (opcode : Word) (op : FaultOp) (addr : Nat) (s : State) : State :=
  { s with
    faultKind := kind
    faultPc := s.pc
    faultOpcode := opcode
    faultOp := op
    faultAddr := BitVec.ofNat 17 addr
    run := .halted }

/-- The code of `fault_kind`, 3 bits (60_exceptions.md R221). -/
def faultKindCode : FaultKind → BitVec 3
  | .none => 0#3
  | .decode => 1#3
  | .memBounds => 2#3
  | .stackOverflow => 3#3
  | .stackUnderflow => 4#3
  | .loadFault => 5#3

/-- The code of `fault_op`, 2 bits (60_exceptions.md R221). -/
def faultOpCode : FaultOp → BitVec 2
  | .none => 0#2
  | .fetch => 1#2
  | .read => 2#2
  | .write => 3#2

/-! ### Outputs (10_state.md R45, R46): functions of the state -/

/-- `sound_active`: `ST != 0` and `RUN != HALTED` (R45). -/
def State.soundActive (s : State) : Bool := s.st != 0x00#8 && s.run != .halted

/-- `halted`: `RUN = HALTED`, the fatal-error signal (R46). -/
def State.haltedOut (s : State) : Bool := s.run == .halted

/-- `waiting`: `RUN = WAIT_KEY` (R46). -/
def State.waitingOut (s : State) : Bool := s.run == .waitKey

end Sys2Proof.Machine
end

