-- ==== Sys2Proof/Machine/Boot.lean ====
section
/-! DEFINITION. `Reset(config, image)` (spec 70_reset_and_hazards.md R270 to R273, 60_exceptions.md R226, 10_state.md R48): the host's step, taken at any
time and from any state, and the only way out of `HALTED`. -/

namespace Sys2Proof.Machine

/-- Every piece of state at the value of R48 for a configuration and an image, no load check made. `keys` and `rnd` are inputs that
reset does not write (R48); the model's own fields `draws` and `script` are not the machine's and stay. -/
def initial (c : Config) (image : List Byte) (s : State) : State where
  v := Vector.replicate 16 0x00#8
  i := 0x0000#16
  pc := c.loadAddr
  dt := 0x00#8
  st := 0x00#8
  stack := []
  mem := Memory.place c.fontBase.toNat [] c.loadAddr.toNat image
  disp := blankFrame
  keys := s.keys
  rnd := s.rnd
  draws := s.draws
  run := .running
  waitX := 0x0#4
  fcFrame := blankFrame
  fcPending := false
  faultKind := .none
  faultPc := 0x0000#16
  faultOpcode := 0x0000#16
  faultOp := .none
  faultAddr := 0x0#17
  cfg := c
  tdiv := 0
  idiv := 0
  script := s.script

/-- `Reset(config, image)` (R270): the reset values with the image, or, when the configuration violates R8 or the image does not fit,
the reset values with an empty image and then the load fault (R226). `PC` is then `LOAD_ADDR` whatever that is (DEDUCED, safe:
notes/assumptions/14.md). -/
def resetTo (c : Config) (image : List Byte) (s : State) : State :=
  if c.legal && c.imageFits image then initial c image s
  else raise .loadFault 0x0000#16 .none 4096 (initial c [] s)

end Sys2Proof.Machine
end

