-- ==== Sys2Proof/Machine/Flags.lean ====
section
/-! DEFINITION. The flag `VF` and every flag computation of the spec (10_state.md R22, 43_alu.md R151, R164): carry, NOT borrow and the
shifted-out bit. The collision flag of `DXYN` is computed by the blit (Machine/Display.lean). -/

namespace Sys2Proof.Machine

/-- A flag as a register value: 0x00 or 0x01 (R22). -/
def flagByte (c : Bool) : Byte := if c then 0x01#8 else 0x00#8

/-- The carry out of bit 7: the exact sum exceeds 255 (R157). -/
def carryOut (a b : Byte) : Bool := decide (255 < a.toNat + b.toNat)

/-- NOT borrow: the minuend is at least the subtrahend (R158, R160). -/
def notBorrow (minuend subtrahend : Byte) : Bool := decide (subtrahend.toNat ≤ minuend.toNat)

/-- The bit a right shift moves out, `src[0]` (R159). -/
def shiftedOutRight (src : Byte) : Bool := src.getLsbD 0

/-- The bit a left shift moves out, `src[7]` (R161). -/
def shiftedOutLeft (src : Byte) : Bool := src.getLsbD 7

/-- The two writes of a flag-writing instruction, in R151's order: the result to `V[x]` first, the flag to `VF` second. With
`x = 0xF` the result is lost and `VF` holds the flag. -/
def writeWithFlag (s : State) (x : Reg) (result : Byte) (flag : Bool) : State :=
  (s.setV x result).setV vf (flagByte flag)

end Sys2Proof.Machine
end

