-- ==== Sys2Proof/Machine/Operands.lean ====
section
/-! DEFINITION. The operand forms of the instructions: the quirk-selected register operands, the low-nibble operands, and the one
addressing mode, register-indirect through `I` with an ascending offset (spec 48_memory_transfer.md R210), with its range
check before access (20_memory.md R69). -/

namespace Sys2Proof.Machine

/-- The offset register of `BNNN`: `V[op[11:8]]` when `Q_JUMP_VX = 1`, `V0` otherwise (40_control_transfer.md R124). -/
def jumpOffset (s : State) (nnn : Imm12) : Byte :=
  if s.cfg.qJumpVx then s.getV (nnn.extractLsb' 8 4) else s.getV 0x0#4

/-- The shift source of `8XY6` and `8XYE`: `V[Y]` when `Q_SHIFT_VY = 1`, `V[X]` otherwise (43_alu.md R159, R161). -/
def shiftSource (s : State) (x y : Reg) : Byte := if s.cfg.qShiftVy then s.getV y else s.getV x

/-- `V[X][3:0]`: the key number of `EX9E`/`EXA1` (46_keypad.md R190) and the digit of `FX29` (44_index_and_random.md R174). -/
def lowNibble (s : State) (x : Reg) : Nibble := (s.getV x).extractLsb' 0 4

/-- `keys[k] = 1` (10_state.md R37). -/
def keyDown (s : State) (k : Nibble) : Bool := s.keys.getLsbD k.toNat

/-- `FONT_BASE + 5 * d` (44_index_and_random.md R174). -/
def glyphAddress (s : State) (d : Nibble) : Word := s.cfg.fontBase + BitVec.ofNat 16 (5 * d.toNat)

/-- The range `I .. I + n - 1` passes 4095; an empty range never does. Addresses are unbounded sums, never reduced (20_memory.md
R61, R69). -/
def outOfRange (s : State) (n : Nat) : Bool := decide (0 < n ∧ 4095 < s.i.toNat + n - 1)

/-- The lowest out-of-range address of such a range, `max(I, 4096)` (20_memory.md R69). -/
def faultAddress (s : State) : Nat := max s.i.toNat 4096

/-- The range check before access (20_memory.md R69): an instruction whose data range passes 4095 takes `MemBounds` and has none of
its effects; otherwise it has its effect `t`. -/
def checked (s : State) (word : Word) (op : FaultOp) (n : Nat) (t : State) : Result :=
  if outOfRange s n then .next (raise .memBounds word op (faultAddress s) s) else .next t

/-- The optional update of `I` after a bulk transfer of `n` bytes: `I <- (I + n) mod 65536` when `Q_INC_I = 1`
(48_memory_transfer.md R212, R213). -/
def incIndex (s : State) (n : Nat) : State :=
  if s.cfg.qIncI then { s with i := BitVec.ofNat 16 (s.i.toNat + n) } else s

/-- `for k in 0 .. n-1: MemWrite(I + k, 1, V[k])` (48_memory_transfer.md R212). -/
def storeRegs (s : State) (n : Nat) : State :=
  (List.range n).foldl (fun t k => t.setByte (t.i.toNat + k) (t.getV (BitVec.ofNat 4 k))) s

/-- `for k in 0 .. n-1: V[k] <- MemRead(I + k, 1)` (48_memory_transfer.md R213). -/
def loadRegs (s : State) (n : Nat) : State :=
  (List.range n).foldl (fun t k => t.setV (BitVec.ofNat 4 k) (t.byteAt (t.i.toNat + k))) s

end Sys2Proof.Machine
end

