-- ==== Sys2Proof/Machine/Alu.lean ====
section
/-! DEFINITION. Register-register ALU instructions (spec 43_alu.md): `8XY0` to `8XY7`, `8XYE`. Operands are read before any write
(R150); the flag writers write the result first and the flag second (R151). None can fault. -/

namespace Sys2Proof.Machine

/-- `8XY0` LD Vx, Vy (R153). -/
def execLdReg (x y : Reg) (s : State) : Result := .next (s.setV x (s.getV y)).advance

/-- `8XY1` OR (R154); `VF` is not written unless it is the destination (R152). -/
def execOrReg (x y : Reg) (s : State) : Result := .next (s.setV x (s.getV x ||| s.getV y)).advance

/-- `8XY2` AND (R155). -/
def execAndReg (x y : Reg) (s : State) : Result := .next (s.setV x (s.getV x &&& s.getV y)).advance

/-- `8XY3` XOR (R156). -/
def execXorReg (x y : Reg) (s : State) : Result := .next (s.setV x (s.getV x ^^^ s.getV y)).advance

/-- `8XY4` ADD (R157): the sum modulo 256, `VF` = carry; no carry in. -/
def execAddReg (x y : Reg) (s : State) : Result :=
  .next (writeWithFlag s x (s.getV x + s.getV y) (carryOut (s.getV x) (s.getV y))).advance

/-- `8XY5` SUB (R158): `V[X] - V[Y]` modulo 256, `VF` = NOT borrow. -/
def execSub (x y : Reg) (s : State) : Result :=
  .next (writeWithFlag s x (s.getV x - s.getV y) (notBorrow (s.getV x) (s.getV y))).advance

/-- `8XY6` SHR (R159): the source shifted right by one, zero fill, `VF` = the bit shifted out. -/
def execShr (x y : Reg) (s : State) : Result :=
  .next (writeWithFlag s x (shiftSource s x y >>> 1) (shiftedOutRight (shiftSource s x y))).advance

/-- `8XY7` SUBN (R160): `V[Y] - V[X]` modulo 256, `VF` = NOT borrow. -/
def execSubn (x y : Reg) (s : State) : Result :=
  .next (writeWithFlag s x (s.getV y - s.getV x) (notBorrow (s.getV y) (s.getV x))).advance

/-- `8XYE` SHL (R161): the source shifted left by one, modulo 256, `VF` = the bit shifted out. -/
def execShl (x y : Reg) (s : State) : Result :=
  .next (writeWithFlag s x (shiftSource s x y <<< 1) (shiftedOutLeft (shiftSource s x y))).advance

end Sys2Proof.Machine
end

