-- ==== Sys2Proof/Machine/Control.lean ====
section
/-! DEFINITION. Control transfer instructions (spec 40_control_transfer.md): `00EE`, `1NNN`, `2NNN`, `BNNN`. They set `PC` to the
target alone (R120); a target out of bounds faults at the next fetch, not here. -/

namespace Sys2Proof.Machine

/-- `00EE` RET (R121): `PC <- Pop()`; `StackUnderflow` when the stack is empty. -/
def execRet (s : State) : Result :=
  match s.stack.getLast? with
  | none => .next (raise .stackUnderflow (encode .ret) .none 0 s)
  | some w => .next (s.dropTop.jumpTo w)

/-- `1NNN` JP (R122): `PC <- zext_16(NNN)`. -/
def execJp (nnn : Imm12) (s : State) : Result := .next (s.jumpTo (zext16 nnn))

/-- `2NNN` CALL (R123): `Push(PC + 2)`, `PC <- zext_16(NNN)`; `StackOverflow` when `SP = STACK_DEPTH`, reporting the stack index
that does not exist (60_exceptions.md R221). -/
def execCall (nnn : Imm12) (s : State) : Result :=
  if s.sp = s.cfg.stackDepth then .next (raise .stackOverflow (encode (.call nnn)) .none s.cfg.stackDepth s)
  else .next ((s.push (s.pc + 2#16)).jumpTo (zext16 nnn))

/-- `BNNN` JP V0 (R124): `PC <- zext_16(NNN) + zext_16(off)`, not reduced modulo 4096. -/
def execJpV0 (nnn : Imm12) (s : State) : Result := .next (s.jumpTo (zext16 nnn + zextByte (jumpOffset s nnn)))

end Sys2Proof.Machine
end

