-- ==== Sys2Proof/Machine/Display.lean ====
section
/-! DEFINITION. Display instructions (spec 45_display.md): `00E0`, `DXYN`. Each ends with exactly one publish, inside the same step and
after all pixel writes (R180). -/

namespace Sys2Proof.Machine

/-- Where a sprite pixel at the unreduced position `(xx, yy)` is drawn: nowhere when `Q_CLIP = 1` and it lies past the right or
bottom edge, else at the position reduced modulo the display size (R182 (b)). -/
def placePixel (clip : Bool) (xx yy : Nat) : Option (Nat × Nat) :=
  if clip && (decide (63 < xx) || decide (31 < yy)) then none else some (xx % 64, yy % 32)

/-- The positions that the 1 bits of one row byte reach, left to right: bit 7 is the leftmost pixel (R183). -/
def rowPixels (clip : Bool) (x0 yy : Nat) (b : Byte) : List (Nat × Nat) :=
  (List.range 8).filterMap (fun c => if b.getLsbD (7 - c) then placePixel clip (x0 + c) yy else none)

/-- The positions that a sprite's 1 bits reach, row by row from the top, its first row at `yy` (R182, R183). -/
def spritePixels (clip : Bool) (x0 yy : Nat) : List Byte → List (Nat × Nat)
  | [] => []
  | b :: rows => rowPixels clip x0 yy b ++ spritePixels clip x0 (yy + 1) rows

/-- Draws one pixel by exclusive OR and notes a collision, a pixel that was 1 (R182, R184). -/
def drawPixel (acc : Frame × Bool) (p : Nat × Nat) : Frame × Bool :=
  (togglePixel acc.1 p.1 p.2, acc.2 || pixel acc.1 p.1 p.2)

/-- Draws a sprite's pixels in order: the new display and `hit` (R182). -/
def blit (f : Frame) (ps : List (Nat × Nat)) : Frame × Bool := ps.foldl drawPixel (f, false)

/-- The pixels `DXYN` draws: the rows are the `N` bytes at `I`, the start position `(V[X] mod 64, V[Y] mod 32)` under both values
of `Q_CLIP` (R182 (a)). -/
def drwPixels (s : State) (x y : Reg) (n : Nibble) : List (Nat × Nat) :=
  spritePixels s.cfg.qClip ((s.getV x).toNat % 64) ((s.getV y).toNat % 32) (s.bytesFrom s.i.toNat n.toNat)

/-- `00E0` CLS (R181). -/
def execCls (s : State) : Result := .next (s.setDisp blankFrame).publish.advance

/-- `DXYN` DRW (R182): `VF` is always written, after the coordinates are read; `I` and memory are not changed. -/
def execDrw (x y : Reg) (n : Nibble) (s : State) : Result :=
  checked s (encode (.drw x y n)) .read n.toNat
    (((s.setDisp (blit s.disp (drwPixels s x y n)).1).setV vf
      (flagByte (blit s.disp (drwPixels s x y n)).2)).publish.advance)

end Sys2Proof.Machine
end

