-- ==== Sys2Proof/Machine/Immediate.lean ====
section
/-! DEFINITION. Register-immediate instructions (spec 42_immediate.md): `6XNN`, `7XNN`. Neither writes a flag nor can fault (R140). -/

namespace Sys2Proof.Machine

/-- `6XNN` LD Vx, NN (R141). -/
def execLdImm (x : Reg) (nn : Byte) (s : State) : Result := .next (s.setV x nn).advance

/-- `7XNN` ADD Vx, NN (R142): modulo 256, no carry flag. -/
def execAddImm (x : Reg) (nn : Byte) (s : State) : Result := .next (s.setV x (s.getV x + nn)).advance

end Sys2Proof.Machine
end

