-- ==== Sys2Proof/Machine/Index.lean ====
section
/-! DEFINITION. Index-register and random instructions (spec 44_index_and_random.md): `ANNN`, `CXNN`, `FX1E`, `FX29`. None can fault,
whatever value `I` receives, and none writes `VF` as a flag (R170). -/

namespace Sys2Proof.Machine

/-- `ANNN` LD I, NNN (R171). -/
def execLdI (nnn : Imm12) (s : State) : Result := .next (s.setI (zext16 nnn)).advance

/-- `CXNN` RND Vx, NN (R172): one draw of the input `rnd`, ANDed with `NN`. -/
def execRnd (x : Reg) (nn : Byte) (s : State) : Result := .next ((s.consumeRnd.setV x (s.rndByte &&& nn))).advance

/-- `FX1E` ADD I, Vx (R173): modulo 65536, not 4096; `VF` is not written. -/
def execAddI (x : Reg) (s : State) : Result := .next (s.setI (s.i + zextByte (s.getV x))).advance

/-- `FX29` LD F, Vx (R174): the address of the glyph of the low nibble. -/
def execLdF (x : Reg) (s : State) : Result := .next (s.setI (glyphAddress s (lowNibble s x))).advance

end Sys2Proof.Machine
end

