-- ==== Sys2Proof/Machine/Keypad.lean ====
section
/-! DEFINITION. Keypad instructions (spec 46_keypad.md): `EX9E`, `EXA1`, `FX0A`, the `Wake` step that completes `FX0A`, and the
input collaborator's `SetKeys`. A key-dependent step reads `keys` once (R190). -/

namespace Sys2Proof.Machine

/-- `EX9E` SKP Vx (R191). -/
def execSkp (x : Reg) (s : State) : Result := .next (s.skipIf (keyDown s (lowNibble s x)))

/-- `EXA1` SKNP Vx (R192). -/
def execSknp (x : Reg) (s : State) : Result := .next (s.skipIf (!keyDown s (lowNibble s x)))

/-- `FX0A` LD Vx, K (R193): `wait_x <- X`, `PC <- PC + 2`, `RUN <- WAIT_KEY`; `Wake` writes `V[X]`. -/
def execLdVxK (x : Reg) (s : State) : Result := .next { s.advance with waitX := x, run := .waitKey }

/-- The smallest `j` with `keys[j] = 1` (R194). -/
def lowestKey (keys : Word) : Option Nat := (List.range 16).find? (fun j => keys.getLsbD j)

/-- `Wake` (R194), enabled exactly when `RUN = WAIT_KEY` and `keys != 0`; where it is not enabled nothing changes. -/
def wake (s : State) : State :=
  match s.run, lowestKey s.keys with
  | .waitKey, some k => { s.setV s.waitX (BitVec.ofNat 8 k) with run := .running }
  | _, _ => s

/-- `SetKeys(k)` (00_scope.md R15): any 16-bit value, in any run state (60_exceptions.md R228). -/
def setKeys (k : Word) (s : State) : State := { s with keys := k }

end Sys2Proof.Machine
end

