-- ==== Sys2Proof/Machine/Skips.lean ====
section
/-! DEFINITION. Conditional skips on registers (spec 41_skips.md): `3XNN`, `4XNN`, `5XY0`, `9XY0`. They write `PC` only and raise no
fault; the skipped bytes are neither fetched nor decoded (R130). -/

namespace Sys2Proof.Machine

/-- `3XNN` SE Vx, NN (R131). -/
def execSeImm (x : Reg) (nn : Byte) (s : State) : Result := .next (s.skipIf (s.getV x == nn))

/-- `4XNN` SNE Vx, NN (R132). -/
def execSneImm (x : Reg) (nn : Byte) (s : State) : Result := .next (s.skipIf (s.getV x != nn))

/-- `5XY0` SE Vx, Vy (R133). -/
def execSeReg (x y : Reg) (s : State) : Result := .next (s.skipIf (s.getV x == s.getV y))

/-- `9XY0` SNE Vx, Vy (R134). -/
def execSneReg (x y : Reg) (s : State) : Result := .next (s.skipIf (s.getV x != s.getV y))

end Sys2Proof.Machine
end

