-- ==== Sys2Proof/Machine/Timers.lean ====
section
/-! DEFINITION. Timer instructions (spec 47_timers.md): `FX07`, `FX15`, `FX18`; the timer driver's `Tick` (60_exceptions.md R241);
and the accumulator of the reference clock divider (70_reset_and_hazards.md R284). -/

namespace Sys2Proof.Machine

/-- `FX07` LD Vx, DT (R201). -/
def execLdVxDt (x : Reg) (s : State) : Result := .next (s.setV x s.dt).advance

/-- `FX15` LD DT, Vx (R202). -/
def execLdDtVx (x : Reg) (s : State) : Result := .next (s.setDt (s.getV x)).advance

/-- `FX18` LD ST, Vx (R203). -/
def execLdStVx (x : Reg) (s : State) : Result := .next (s.setSt (s.getV x)).advance

/-- One timer's decrement: by 1 if it is above 0, else it stays at 0 (60_exceptions.md R241). -/
def countDown (t : Byte) : Byte := if 0 < t.toNat then t - 0x01#8 else t

/-- `Tick` (60_exceptions.md R241, R243), enabled whenever `RUN != HALTED`; where it is not enabled nothing changes. -/
def tick (s : State) : State :=
  if s.run = .halted then s else { s with dt := countDown s.dt, st := countDown s.st }

/-- One edge of a phase accumulator (70_reset_and_hazards.md R284): its next value, and whether its event falls on this edge. -/
def divide (clkHz rate acc : Nat) : Nat × Bool :=
  if clkHz ≤ acc + rate then (acc + rate - clkHz, true) else (acc + rate, false)

end Sys2Proof.Machine
end

