-- ==== Sys2Proof/Machine/Transfer.lean ====
section
/-! DEFINITION. Memory transfer instructions (spec 48_memory_transfer.md): `FX33`, `FX55`, `FX65`. The whole range is checked before any
byte is transferred (R210); on a fault nothing is transferred. -/

namespace Sys2Proof.Machine

/-- The three decimal digits of `V[X]`, hundreds, tens, ones (R211). -/
def hundreds (b : Byte) : Byte := BitVec.ofNat 8 (b.toNat / 100)

/-- The tens digit (R211). -/
def tens (b : Byte) : Byte := BitVec.ofNat 8 (b.toNat / 10 % 10)

/-- The ones digit (R211). -/
def ones (b : Byte) : Byte := BitVec.ofNat 8 (b.toNat % 10)

/-- The three writes of `FX33`: hundreds at `I`, tens at `I + 1`, ones at `I + 2` (R211). -/
def storeDigits (s : State) (b : Byte) : State :=
  ((s.setByte s.i.toNat (hundreds b)).setByte (s.i.toNat + 1) (tens b)).setByte (s.i.toNat + 2) (ones b)

/-- `FX33` LD B, Vx (R211): `I` is not changed. -/
def execLdB (x : Reg) (s : State) : Result :=
  checked s (encode (.ldB x)) .write 3 (storeDigits s (s.getV x)).advance

/-- `FX55` LD [I], Vx (R212): `X + 1` bytes from `I` on. -/
def execStRegs (x : Reg) (s : State) : Result :=
  checked s (encode (.stRegs x)) .write (x.toNat + 1) (incIndex (storeRegs s (x.toNat + 1)) (x.toNat + 1)).advance

/-- `FX65` LD Vx, [I] (R213): `X + 1` registers from `I` on. -/
def execLdRegs (x : Reg) (s : State) : Result :=
  checked s (encode (.ldRegs x)) .read (x.toNat + 1) (incIndex (loadRegs s (x.toNat + 1)) (x.toNat + 1)).advance

end Sys2Proof.Machine
end

