-- ==== Sys2Proof/Machine/Agents.lean ====
section
/-! DEFINITION. The steps of the agents (spec 00_scope.md R15 to R17): the Engine's `Exec` and `Wake`, one edge of the reference clock divider, and
what the step of the script's next agent does. -/

namespace Sys2Proof.Machine

/-- `Exec` (00_scope.md R16): fetch, decode, execute, in that order; the first failure ends the step (60_exceptions.md R227). -/
def execStep (s : State) : Result :=
  match fetch s with
  | .error a => .next (raise .memBounds 0x0000#16 .fetch a s)
  | .ok op =>
    match decode op with
    | .error _ => .next (raise .decode op .none s.pc.toNat s)
    | .ok i => exec i s

/-- The Engine's step: `Exec` when running, `Wake` when waiting for a key. While it waits with no key down, and in `HALTED`, no
Engine step is enabled and nothing changes (10_state.md R39, 46_keypad.md R194). -/
def engineStep (s : State) : Result :=
  match s.run with
  | .running => execStep s
  | .waitKey => .next (wake s)
  | .halted => .next s

/-- The tick half of a clock edge (70_reset_and_hazards.md R284). -/
def edgeTick (s : State) : State :=
  let d := divide s.cfg.clkHz 60 s.tdiv
  if d.2 then tick { s with tdiv := d.1 } else { s with tdiv := d.1 }

/-- The instruction half of a clock edge (70_reset_and_hazards.md R284): `Exec` only while running. -/
def edgeExec (s : State) : Result :=
  let d := divide s.cfg.clkHz s.cfg.ips s.idiv
  if d.2 ∧ s.run = .running then execStep { s with idiv := d.1 } else .next { s with idiv := d.1 }

/-- One rising edge of `clk` (70_reset_and_hazards.md R284), while `RUN != HALTED`: `Tick` before `Exec`, then `Wake` if it is enabled
(notes/assumptions/15.md). -/
def clockEdge (s : State) : Result :=
  if s.run = .halted then .next s
  else andThen (edgeExec (edgeTick s)) (fun t => .next (wake t))

/-- One agent's step. A step that is not enabled in this state leaves it as it is. -/
def perform (a : AgentStep) (s : State) : Result :=
  match a with
  | .engine => engineStep s
  | .tick => .next (tick s)
  | .setKeys k => .next (setKeys k s)
  | .take => .next s.take
  | .reset c image => .next (resetTo c image s)
  | .clockEdge => clockEdge s

end Sys2Proof.Machine
end

