-- ==== Sys2Proof/Machine/Step.lean ====
section
/-! DEFINITION. One step of the whole machine (spec 00_scope.md R15 to R17), and where a test puts an instruction. -/

namespace Sys2Proof.Machine

/-- One atomic step of one agent: the script's next, or the Engine's when the script is empty. A halted machine with an empty script
has no step left (60_exceptions.md R228, R231) and ends in the fault `halted`. -/
def step (s : State) : Host.Outcome State Fault Refusal :=
  match s.script with
  | a :: rest => perform a { s with script := rest }
  | [] => if s.run = .halted then .fault (.halted s.faultKind) else engineStep s

/-- `s` with the instruction whose bits are `w` stored where the next fetch reads it, at `PC` and `PC + 1`, high byte first
(20_memory.md R64), and with the Engine's `Exec` as the very next step: no other agent's step pending, `RUN = RUNNING`
(notes/assumptions/5.md). -/
def State.withFetchWord (s : State) (nbits w : Nat) : State :=
  { (s.setByte s.pc.toNat (bytesOfWord (tableWord nbits w)).1).setByte (s.pc.toNat + 1) (bytesOfWord (tableWord nbits w)).2 with
    run := .running
    script := [] }

end Sys2Proof.Machine
end

