-- ==== Sys2Proof/Safety.lean ====
section
/-! DEFINITION. The terms claims about this machine use: its invariant (spec 10_state.md R47), which state each instruction may
write (10_state.md R21, R22, R24, R28, R29, 20_memory.md R67), when an instruction faults (60_exceptions.md R221, R222), which display
positions a sprite reaches (45_display.md R182 to R184), and runs of several instructions or agent steps. -/

namespace Sys2Proof.Machine

/-! ### The invariant -/

/-- What holds in every reachable state (R47), with the two facts about the stack and the frame slot it rests on. After a load
fault by an illegal configuration `PC = LOAD_ADDR` is any value (60_exceptions.md R226), so the clauses about `PC` and the
configuration except that state. -/
structure State.Inv (s : State) : Prop where
  /-- The memory list is canonical: equal memories are equal lists, and no byte lies outside `mem[0 .. 4095]`. -/
  memory : s.mem.wf s.cfg.fontBase.toNat
  /-- `0 <= SP <= STACK_DEPTH`. -/
  stackBound : s.sp ≤ s.cfg.stackDepth
  /-- A return address is at most 0x1000: a `2NNN` is fetched at 0xFFE or below. -/
  stackEntries : ∀ w ∈ s.stack, w.toNat ≤ 0x1000
  /-- `PC` is in 0..0x10FE. -/
  pcRange : s.faultKind ≠ .loadFault → s.pc.toNat ≤ 0x10FE
  /-- `RUN = HALTED` exactly when `fault_kind != 0`. -/
  haltedIff : s.run = .halted ↔ s.faultKind ≠ .none
  /-- `fc_pending = 1` implies that `fc_frame` is the display as the most recent display-mutating instruction left it. -/
  published : s.fcPending = true → s.fcFrame = s.disp
  /-- A machine that runs, or that an instruction halted, has a configuration that satisfies R8. -/
  configLegal : s.faultKind ≠ .loadFault → s.cfg.legal = true

/-- No fault has been taken: what a claim about a program calls a safe state (a halted machine is never a successful end,
70_reset_and_hazards.md R279). -/
def State.Safe (s : State) : Prop := s.run ≠ .halted

/-! ### What an instruction may write -/

/-- The general registers an instruction's `Exec` step writes: `V[X]`, or `V0..V[X]`, and `VF` where it is written as a flag (R21, R22).
`FX0A` writes its register at its `Wake` step, not here. -/
def writesReg : Instr → Reg → Bool
  | .ldImm x _, r | .addImm x _, r | .ldReg x _, r | .orReg x _, r | .andReg x _, r | .xorReg x _, r => r == x
  | .addReg x _, r | .sub x _, r | .shr x _, r | .subn x _, r | .shl x _, r => r == x || r == vf
  | .rnd x _, r | .ldVxDt x, r => r == x
  | .drw _ _ _, r => r == vf
  | .ldRegs x, r => decide (r.toNat ≤ x.toNat)
  | .cls, _ | .ret, _ | .jp _, _ | .call _, _ | .seImm _ _, _ | .sneImm _ _, _ | .seReg _ _, _ | .sneReg _ _, _ => false
  | .ldI _, _ | .jpV0 _, _ | .skp _, _ | .sknp _, _ | .ldVxK _, _ | .ldDtVx _, _ | .ldStVx _, _ => false
  | .addI _, _ | .ldF _, _ | .ldB _, _ | .stRegs _, _ => false

/-- The number of bytes an instruction stores from `I` on (20_memory.md R67). -/
def bytesStored : Instr → Nat
  | .ldB _ => 3
  | .stRegs x => x.toNat + 1
  | _ => 0

/-- The display-mutating instructions (45_display.md). -/
def mutatesDisplay : Instr → Bool
  | .cls | .drw _ _ _ => true
  | _ => false

/-- The instructions that write `I` (R24); the bulk transfers do only when `Q_INC_I = 1`. -/
def writesIndex (c : Config) : Instr → Bool
  | .ldI _ | .addI _ | .ldF _ => true
  | .stRegs _ | .ldRegs _ => c.qIncI
  | _ => false

/-- The instructions that set `PC` directly (40_control_transfer.md R120). -/
def setsPc : Instr → Bool
  | .ret | .jp _ | .call _ | .jpV0 _ => true
  | _ => false

/-- The skip instructions (41_skips.md R130, 46_keypad.md R191, R192). -/
def isSkip : Instr → Bool
  | .seImm _ _ | .sneImm _ _ | .seReg _ _ | .sneReg _ _ | .skp _ | .sknp _ => true
  | _ => false

/-- The number of data bytes at `I` an instruction touches (20_memory.md R67, R69). -/
def dataBytes : Instr → Nat
  | .drw _ _ n => n.toNat
  | .ldB _ => 3
  | .stRegs x | .ldRegs x => x.toNat + 1
  | _ => 0

/-- When the execute part of an instruction faults (60_exceptions.md R221, R222, R227): a return with an empty stack, a call with a full one,
or a data range that passes 4095. -/
def faultsOn (s : State) : Instr → Prop
  | .ret => s.sp = 0
  | .call _ => s.sp = s.cfg.stackDepth
  | i => 0 < dataBytes i ∧ 4095 < s.i.toNat + dataBytes i - 1

/-- The state a fault leaves (60_exceptions.md R228): the fault registers and `RUN`, and nothing else. -/
def faulted (s : State) (kind : FaultKind) (opcode : Word) (op : FaultOp) (addr : Nat) : State :=
  { s with faultKind := kind, faultPc := s.pc, faultOpcode := opcode, faultOp := op, faultAddr := BitVec.ofNat 17 addr,
           run := .halted }

/-- The illegal words, group by group (30_encoding.md R104). -/
def illegalByGroup (op : Word) : Prop :=
  (fieldN0 op = 0x0#4 ∧ op ≠ 0x00E0#16 ∧ op ≠ 0x00EE#16)
  ∨ (fieldN0 op = 0x5#4 ∧ fieldN op ≠ 0x0#4)
  ∨ (fieldN0 op = 0x8#4 ∧ fieldN op ∈ [0x8#4, 0x9#4, 0xA#4, 0xB#4, 0xC#4, 0xD#4, 0xF#4])
  ∨ (fieldN0 op = 0x9#4 ∧ fieldN op ≠ 0x0#4)
  ∨ (fieldN0 op = 0xE#4 ∧ fieldNN op ∉ [0x9E#8, 0xA1#8])
  ∨ (fieldN0 op = 0xF#4 ∧ fieldNN op ∉ [0x07#8, 0x0A#8, 0x15#8, 0x18#8, 0x1E#8, 0x29#8, 0x33#8, 0x55#8, 0x65#8])

/-! ### Reset -/

/-- The values of R48 that `Reset(config, image)` leaves in `t`, whatever the state `s` before, but for `RUN` and the fault registers: the
registers zero, `PC` at `LOAD_ADDR`, the stack empty, memory holding the image, the font and zeros (70_reset_and_hazards.md R271 to R273),
the display and the frame slot blank, the dividers 0, and the inputs as they were. -/
structure HasResetValues (c : Config) (image : List Byte) (s t : State) : Prop where
  v : ∀ r, t.getV r = 0x00#8
  i : t.i = 0x0000#16
  pc : t.pc = c.loadAddr
  timers : t.dt = 0x00#8 ∧ t.st = 0x00#8
  sp : t.sp = 0
  mem : ∀ a < 4096, t.byteAt a =
    if h : c.loadAddr.toNat ≤ a ∧ a - c.loadAddr.toNat < image.length then image[a - c.loadAddr.toNat]'h.2
    else if c.fontBase.toNat ≤ a ∧ a < c.fontBase.toNat + 80 then fontBytes.getD (a - c.fontBase.toNat) 0x00#8 else 0x00#8
  disp : ∀ x y, pixel t.disp x y = false
  frameSlot : (∀ k < 2048, frameBit t.fcFrame k = false) ∧ t.fcPending = false
  waitX : t.waitX = 0x0#4
  dividers : t.tdiv = 0 ∧ t.idiv = 0
  cfg : t.cfg = c
  inputs : t.keys = s.keys ∧ t.rnd = s.rnd

/-! ### The display -/

/-- The sprite of `DXYN` reaches the position `(px, py)` with a 1 bit (45_display.md R182, R183): some row `r` and column `c` of it hold a 1
bit whose unreduced position is not clipped and reduces to `(px, py)`. -/
def spriteCovers (s : State) (x y : Reg) (n : Nibble) (px py : Nat) : Prop :=
  ∃ r c, r < n.toNat ∧ c < 8 ∧ (s.byteAt (s.i.toNat + r)).getLsbD (7 - c) = true
    ∧ (s.cfg.qClip = true → (s.getV x).toNat % 64 + c ≤ 63 ∧ (s.getV y).toNat % 32 + r ≤ 31)
    ∧ px = ((s.getV x).toNat % 64 + c) % 64 ∧ py = ((s.getV y).toNat % 32 + r) % 32

/-! ### Runs of several steps -/

/-- Executes a list of instructions one after the other, whatever memory holds at `PC`. -/
def execAll : List Instr → State → Result
  | [], s => .next s
  | i :: is, s => andThen (exec i s) (execAll is)

/-- Takes `n` ticks. -/
def ticks : Nat → State → State
  | 0, s => s
  | n + 1, s => ticks n (tick s)

/-- `n` clock edges of a phase accumulator from `acc` on (70_reset_and_hazards.md R284): its value after them, and how many events fell. -/
def divideRun (clkHz rate : Nat) : Nat → Nat → Nat × Nat
  | 0, acc => (acc, 0)
  | n + 1, acc =>
    let d := divide clkHz rate acc
    let r := divideRun clkHz rate n d.1
    (r.1, r.2 + if d.2 then 1 else 0)

end Sys2Proof.Machine
end

