-- ==== Sys2Proof/Certificates/Slice0/Obligations.lean ====
section
/-! DEFINITION. The statements for the provers, each a rule of the spec or a consequence of rules, over every state and every
configuration. Where a rule gives an instruction, the statement says its encoding too (R100's pattern, every operand value), its result, its
frame and its faults. `t = { s with f := … }` says that every field of the state but `f` is unchanged, so every special register,
every fault register, the display and the inputs are covered by it. -/

open Sys2Proof Sys2Proof.Machine

/-! ### Encoding -/

/-- 30_encoding.md R100, R110: words written out from the patterns, at least one of every family, decode to their instructions. -/
def Obligations.SpecifiedWordsDecode : Prop :=
  decode 0x00E0#16 = .ok .cls ∧ decode 0x00EE#16 = .ok .ret ∧ decode 0x1ABC#16 = .ok (.jp 0xABC#12)
  ∧ decode 0x2300#16 = .ok (.call 0x300#12) ∧ decode 0x3A42#16 = .ok (.seImm 0xA#4 0x42#8)
  ∧ decode 0x9120#16 = .ok (.sneReg 0x1#4 0x2#4) ∧ decode 0x600A#16 = .ok (.ldImm 0x0#4 0x0A#8)
  ∧ decode 0x8014#16 = .ok (.addReg 0x0#4 0x1#4) ∧ decode 0x812E#16 = .ok (.shl 0x1#4 0x2#4)
  ∧ decode 0xA2F0#16 = .ok (.ldI 0x2F0#12) ∧ decode 0xC10F#16 = .ok (.rnd 0x1#4 0x0F#8)
  ∧ decode 0xD125#16 = .ok (.drw 0x1#4 0x2#4 0x5#4) ∧ decode 0xE49E#16 = .ok (.skp 0x4#4)
  ∧ decode 0xF20A#16 = .ok (.ldVxK 0x2#4) ∧ decode 0xF315#16 = .ok (.ldDtVx 0x3#4) ∧ decode 0xF255#16 = .ok (.stRegs 0x2#4)

/-- R110: encoding is the inverse of decoding; no operand bit of any instruction is dropped. -/
def Obligations.DecodeOfEncode : Prop := ∀ i : Instr, decode (encode i) = .ok i

/-- The other direction: each legal word has one meaning, whose word it is. -/
def Obligations.EncodeOfDecode : Prop := ∀ (op : Word) (i : Instr), decode op = .ok i → encode i = op

/-- R91, R64: an instruction is exactly its two bytes, high byte first; what follows them is left over. -/
def Obligations.InstructionIsItsTwoBytes : Prop :=
  ∀ (i : Instr) (rest : List Byte), decodeBytes (encodeBytes i ++ rest) = .ok (i, rest)
    ∧ encodeBytes i = [BitVec.ofNat 8 ((encode i).toNat / 256), BitVec.ofNat 8 ((encode i).toNat % 256)]

/-- R95 against R100: the decoder's case split accepts exactly the words that match a row of the table, and reads each as an
instruction of a row it matches. -/
def Obligations.DecodeFollowsOpcodeTable : Prop :=
  ∀ op : Word, ((∃ i, decode op = .ok i) ↔ legalWord op = true) ∧ ∀ i, decode op = .ok i → (rowOf i).matches op = true

/-- R101: the 34 patterns are pairwise disjoint. -/
def Obligations.OpcodeRowsDisjoint : Prop :=
  opcodeTable.length = 34
    ∧ opcodeTable.Pairwise (fun r q => ∀ op : Word, ¬ (r.matches op = true ∧ q.matches op = true))

/-! ### Fetch, decode, faults -/

/-- R16: when the two bytes at `PC` decode to an instruction, the Engine's step is that instruction's effect, at once when the script is
empty and as the script's next step when it says so. -/
def Obligations.StepRunsDecodedInstruction : Prop :=
  ∀ (s : State) (i : Instr), s.run = .running → s.pc.toNat ≤ 4094 → decodeBytes (s.bytesFrom s.pc.toNat 2) = .ok (i, []) →
    (s.script = [] → step s = exec i s)
    ∧ ∀ rest, s.script = .engine :: rest → step s = exec i { s with script := rest }

/-- R90: the fetch reads two bytes big-endian at any parity; beyond 0xFFE it faults before decoding, with the lowest address out of
bounds and no opcode. -/
def Obligations.FetchReadsTwoBytesOrFaults : Prop :=
  ∀ s : State,
    (s.pc.toNat ≤ 0xFFE → fetch s = .ok (s.byteAt s.pc.toNat ++ s.byteAt (s.pc.toNat + 1)))
    ∧ (0xFFE < s.pc.toNat → s.run = .running →
        perform .engine s = .next (faulted s .memBounds 0x0000#16 .fetch (if s.pc.toNat = 4095 then 4096 else s.pc.toNat)))

/-- R104, R223: the words that decode to nothing are exactly the groups of R104's table, and executing one takes `DecodeFault` with its
address and the word, and has no other effect. -/
def Obligations.IllegalWordTakesDecodeFault : Prop :=
  (∀ op : Word, (∃ e, decode op = .error e) ↔ illegalByGroup op)
  ∧ ∀ (s : State) (op : Word), s.run = .running → s.script = [] → fetch s = .ok op → illegalByGroup op →
      step s = .next (faulted s .decode op .none s.pc.toNat)

/-- R227, R230: an instruction's effect faults exactly when R221 says so; then it has changed the fault registers and `RUN` and nothing else,
`fault_pc` is its own address and `fault_opcode` its own word; otherwise it leaves the fault registers alone and does not halt. -/
def Obligations.FaultsArePreciseAndExact : Prop :=
  ∀ (i : Instr) (s : State), ∃ t, exec i s = .next t
    ∧ (faultsOn s i → ∃ kind op addr, kind ≠ .none ∧ t = faulted s kind (encode i) op addr)
    ∧ (¬ faultsOn s i → s.run = .running → t.run ≠ .halted)
    ∧ (¬ faultsOn s i → t.faultKind = s.faultKind ∧ t.faultPc = s.faultPc ∧ t.faultOpcode = s.faultOpcode
        ∧ t.faultOp = s.faultOp ∧ t.faultAddr = s.faultAddr)

/-- R228: fault entry writes the fault registers and `RUN`; in `HALTED` no agent's step but `Reset` changes anything except that `SetKeys` still
changes `keys` and `Take` may still collect a frame; `halted = 1` and `sound_active = 0`. The codes of the kinds and operations are
those of R221. That a clock edge in `HALTED` is a step that changes nothing, the accumulators included, is the model's choice
(notes/assumptions/15.md), from R284's condition `RUN != HALTED`. -/
def Obligations.HaltedIsAbsorbing : Prop :=
  (∀ kind w op a s, raise kind w op a s = faulted s kind w op a)
  ∧ (faultKindCode .none = 0#3 ∧ faultKindCode .decode = 1#3 ∧ faultKindCode .memBounds = 2#3 ∧ faultKindCode .stackOverflow = 3#3
      ∧ faultKindCode .stackUnderflow = 4#3 ∧ faultKindCode .loadFault = 5#3)
  ∧ (faultOpCode .none = 0#2 ∧ faultOpCode .fetch = 1#2 ∧ faultOpCode .read = 2#2 ∧ faultOpCode .write = 3#2)
  ∧ ∀ (s : State), s.run = .halted →
      s.haltedOut = true ∧ s.soundActive = false
      ∧ perform .engine s = .next s ∧ perform .tick s = .next s ∧ perform .clockEdge s = .next s
      ∧ (∀ k, perform (.setKeys k) s = .next { s with keys := k })
      ∧ perform .take s = .next { s with fcPending := false }

/-- The model's choice (notes/assumptions/6.md): a halted machine whose script is empty has no step left, and the step ends in the model's
fault `halted`. -/
def Obligations.HaltedMachineHasNoStep : Prop :=
  ∀ s : State, s.run = .halted → s.script = [] → step s = .fault (.halted s.faultKind)

/-! ### Reset -/

/-- R48, R270: the value of every piece of state after a reset with a legal configuration and an image that fits, from any state. -/
def Obligations.ResetWritesEveryState : Prop :=
  ∀ (c : Config) (image : List Byte) (s : State), c.legal = true → c.loadAddr.toNat + image.length ≤ 4096 →
    ∃ t, perform (.reset c image) s = .next t ∧ HasResetValues c image s t ∧ t.run = .running
      ∧ t.faultKind = .none ∧ t.faultPc = 0x0000#16 ∧ t.faultOpcode = 0x0000#16 ∧ t.faultOp = .none ∧ t.faultAddr = 0x0#17

/-- R226: a configuration that violates R8 or an image that does not fit ends reset in the load fault, with the reset values of an empty
image; an image of exactly `4096 - LOAD_ADDR` bytes and an empty one are accepted, and after an empty one the first fetch takes
`DecodeFault` on 0x0000. -/
def Obligations.LoadFaultHaltsReset : Prop :=
  (∀ (c : Config) (image : List Byte) (s : State), c.legal = false ∨ 4096 < c.loadAddr.toNat + image.length →
    ∃ t, perform (.reset c image) s = .next t ∧ HasResetValues c [] s t ∧ t.run = .halted
      ∧ t.faultKind = .loadFault ∧ t.faultPc = c.loadAddr ∧ t.faultOpcode = 0x0000#16 ∧ t.faultOp = .none
      ∧ t.faultAddr = 4096#17)
  ∧ (∀ (c : Config) (image : List Byte) (s : State), c.legal = true → image.length = 4096 - c.loadAddr.toNat →
    ∃ t, perform (.reset c image) s = .next t ∧ t.run = .running)
  ∧ (∀ (c : Config) (s : State), c.legal = true →
    ∃ t, perform (.reset c []) s = .next t ∧ perform .engine t = .next (faulted t .decode 0x0000#16 .none c.loadAddr.toNat))

/-- What `State.reset` holds: the reset values of R48 with the defaults of R6 for the address of the program, the stack depth and the font, and
the whole font of R272, glyph by glyph, with a zero byte on either side.
That the toggles are 0, no key is down and the script is empty there are the model's choices (notes/assumptions/1.md, 2.md, 4.md) and
are not stated. -/
def Obligations.ResetStateValues : Prop :=
  State.reset.pc = 0x0200#16 ∧ State.reset.i = 0x0000#16 ∧ (∀ r, State.reset.getV r = 0x00#8)
  ∧ State.reset.dt = 0x00#8 ∧ State.reset.st = 0x00#8 ∧ State.reset.sp = 0 ∧ State.reset.run = .running
  ∧ State.reset.fcPending = false ∧ State.reset.faultKind = .none ∧ State.reset.cfg.stackDepth = 16
  ∧ State.reset.bytesFrom 0x04F 21 = [0x00#8, 0xF0#8, 0x90#8, 0x90#8, 0x90#8, 0xF0#8, 0x20#8, 0x60#8, 0x20#8, 0x20#8, 0x70#8,
      0xF0#8, 0x10#8, 0xF0#8, 0x80#8, 0xF0#8, 0xF0#8, 0x10#8, 0xF0#8, 0x10#8, 0xF0#8]
  ∧ State.reset.bytesFrom 0x064 20 = [0x90#8, 0x90#8, 0xF0#8, 0x10#8, 0x10#8, 0xF0#8, 0x80#8, 0xF0#8, 0x10#8, 0xF0#8,
      0xF0#8, 0x80#8, 0xF0#8, 0x90#8, 0xF0#8, 0xF0#8, 0x10#8, 0x20#8, 0x40#8, 0x40#8]
  ∧ State.reset.bytesFrom 0x078 20 = [0xF0#8, 0x90#8, 0xF0#8, 0x90#8, 0xF0#8, 0xF0#8, 0x90#8, 0xF0#8, 0x10#8, 0xF0#8,
      0xF0#8, 0x90#8, 0xF0#8, 0x90#8, 0x90#8, 0xE0#8, 0x90#8, 0xE0#8, 0x90#8, 0xE0#8]
  ∧ State.reset.bytesFrom 0x08C 21 = [0xF0#8, 0x80#8, 0x80#8, 0x80#8, 0xF0#8, 0xE0#8, 0x90#8, 0x90#8, 0x90#8, 0xE0#8,
      0xF0#8, 0x80#8, 0xF0#8, 0x80#8, 0xF0#8, 0xF0#8, 0x80#8, 0xF0#8, 0x80#8, 0x80#8, 0x00#8]

/-! ### Invariants -/

/-- R47 at reset. -/
def Obligations.InvariantHoldsAtReset : Prop := State.reset.Inv

/-- R47: every step of every agent keeps the invariant, from every state that has it. -/
def Obligations.InvariantKeptByEveryStep : Prop := ∀ s t : State, s.Inv → step s = .next t → t.Inv

/-! ### What instructions leave alone -/

/-- R26: after an instruction that does not fault and is no control transfer, `PC` is `PC + 2` or `PC + 4` for a skip and `PC + 2` for every
other; where the four control transfers go is stated with each of them. -/
def Obligations.ProgramCounterAdvance : Prop :=
  ∀ (i : Instr) (s t : State), exec i s = .next t → ¬ faultsOn s i →
    (isSkip i = true → t.pc = s.pc + 2#16 ∨ t.pc = s.pc + 4#16)
    ∧ (isSkip i = false → setsPc i = false → t.pc = s.pc + 2#16)

/-- R21, R22: an instruction changes no general register but those R21 gives it, and `VF` only where R22 or its operands name it. -/
def Obligations.RegistersChangeOnlyWhereNamed : Prop :=
  ∀ (i : Instr) (s t : State) (r : Reg), exec i s = .next t → writesReg i r = false → t.getV r = s.getV r

/-- R24, R28, R29, R37, R43: the stack changes only in a call or a return, `DT` only in `FX15`, `ST` only in `FX18`, `I` only in the
instructions R24 lists; no instruction writes `keys`, the straps or the dividers, and only `CXNN` draws from `rnd`. -/
def Obligations.EachStateHasItsWriters : Prop :=
  ∀ (i : Instr) (s t : State), exec i s = .next t →
    (i ≠ .ret → (∀ nnn, i ≠ .call nnn) → t.stack = s.stack)
    ∧ ((∀ x, i ≠ .ldDtVx x) → t.dt = s.dt) ∧ ((∀ x, i ≠ .ldStVx x) → t.st = s.st)
    ∧ (writesIndex s.cfg i = false → t.i = s.i)
    ∧ ((∀ x nn, i ≠ .rnd x nn) → t.rnd = s.rnd ∧ t.draws = s.draws)
    ∧ t.keys = s.keys ∧ t.cfg = s.cfg ∧ t.tdiv = s.tdiv ∧ t.idiv = s.idiv ∧ t.script = s.script

/-- R67: no instruction but `FX33` and `FX55` changes a byte of memory, and those change none outside the bytes they store from `I` on. -/
def Obligations.OnlyStoresChangeMemory : Prop :=
  ∀ (i : Instr) (s t : State) (a : Nat), exec i s = .next t →
    (a < s.i.toNat ∨ s.i.toNat + bytesStored i ≤ a) → t.byteAt a = s.byteAt a

/-- R180: each successful `00E0` or `DXYN` publishes the display as it leaves it, changed or not, in the linear order of R36 and R247; no other
instruction publishes or touches the display, and a faulting one publishes nothing. -/
def Obligations.OnlyDisplayInstructionsPublish : Prop :=
  ∀ (i : Instr) (s t : State), exec i s = .next t →
    (mutatesDisplay i = true → ¬ faultsOn s i → t.fcFrame = t.disp ∧ t.fcPending = true
        ∧ ∀ x < 64, ∀ y < 32, frameBit t.fcFrame (64 * y + x) = pixel t.disp x y)
    ∧ (mutatesDisplay i = false ∨ faultsOn s i → t.disp = s.disp ∧ t.fcFrame = s.fcFrame ∧ t.fcPending = s.fcPending)

/-- R195: `FX0A` is the only instruction that suspends the Engine. -/
def Obligations.OnlyWaitForKeySuspends : Prop :=
  ∀ (i : Instr) (s : State), s.run = .running →
    ∃ t, exec i s = .next t ∧ (t.run = .waitKey ↔ ∃ x, i = .ldVxK x)

/-- R15: `SetKeys(k)` sets `keys` to any `k`, in any run state, and changes nothing else. R37, R43: over all agents, `keys` changes only in such
a step and the configuration only in a `Reset` step. -/
def Obligations.KeysAndStrapsChangeFromOutsideOnly : Prop :=
  (∀ (k : Word) (s : State), perform (.setKeys k) s = .next { s with keys := k })
  ∧ ∀ s t : State, step s = .next t →
    ((∀ k, s.script.head? ≠ some (.setKeys k)) → t.keys = s.keys)
    ∧ ((∀ c image, s.script.head? ≠ some (.reset c image)) → t.cfg = s.cfg)

/-- R249: `Take` clears `fc_pending` and keeps `fc_frame`; and no step of any agent can tell whether a frame has been taken: two states that differ
in `fc_pending` only take steps that differ in `fc_pending` only, or end in the same fault. -/
def Obligations.TakeIsInvisibleToPrograms : Prop :=
  (∀ s : State, perform .take s = .next { s with fcPending := false }
    ∧ s.frameOffered = if s.fcPending = true then some s.fcFrame else none)
  ∧ ∀ (s : State) (b : Bool),
      (∀ t, step s = .next t → ∃ c, step { s with fcPending := b } = .next { t with fcPending := c })
      ∧ (∀ r, step s = .fault r → step { s with fcPending := b } = .fault r)
      ∧ (∀ r, step s ≠ .refused r)

/-! ### Control transfer -/

/-- R121 with R32: `00EE` pops the last entry into `PC`; with an empty stack it takes `StackUnderflow`. -/
def Obligations.RetPopsReturnAddress : Prop :=
  decode 0x00EE#16 = .ok .ret
  ∧ ∀ s : State, exec .ret s = .next (
      if s.sp = 0 then faulted s .stackUnderflow 0x00EE#16 .none 0
      else { s with pc := s.stack.getD (s.sp - 1) 0x0000#16, stack := s.stack.take (s.sp - 1) })

/-- R122: `1NNN` sets `PC` to `NNN`. -/
def Obligations.JumpSetsPc : Prop :=
  ∀ (nnn : Imm12) (s : State), decode (0x1#4 ++ nnn) = .ok (.jp nnn)
    ∧ ∃ t, exec (.jp nnn) s = .next t ∧ t.pc.toNat = nnn.toNat ∧ t = { s with pc := t.pc }

/-- R123 with R31: `2NNN` pushes `PC + 2` and sets `PC` to `NNN`; with a full stack it takes `StackOverflow`, reporting `STACK_DEPTH`. -/
def Obligations.CallPushesReturnAddress : Prop :=
  ∀ (nnn : Imm12) (s : State), decode (0x2#4 ++ nnn) = .ok (.call nnn)
    ∧ exec (.call nnn) s = .next (
        if s.sp = s.cfg.stackDepth then faulted s .stackOverflow (0x2#4 ++ nnn) .none s.cfg.stackDepth
        else { s with stack := s.stack ++ [s.pc + 2#16], pc := nnn.setWidth 16 })

/-- R124: `BNNN` sets `PC` to `NNN` plus `V0`, or plus `V[X]` with `X` the top nibble of `NNN` when `Q_JUMP_VX = 1`; the sum is not
reduced modulo 4096. -/
def Obligations.JumpWithOffset : Prop :=
  ∀ (nnn : Imm12) (s : State), decode (0xB#4 ++ nnn) = .ok (.jpV0 nnn)
    ∧ ∃ t, exec (.jpV0 nnn) s = .next t ∧ t = { s with pc := t.pc }
      ∧ t.pc.toNat = nnn.toNat + (if s.cfg.qJumpVx = true then s.getV (BitVec.ofNat 4 (nnn.toNat / 256)) else s.getV 0x0#4).toNat

/-- R125: calls as many as the stack has room for, then as many returns, leave `PC` after the first call and everything else as it was; one more
call than there is room for takes `StackOverflow`. -/
def Obligations.NestedCallsReturn : Prop :=
  (∀ (target : Imm12) (more : List Imm12) (s : State), s.sp + (more.length + 1) ≤ s.cfg.stackDepth →
    execAll ((target :: more).map .call ++ List.replicate (more.length + 1) .ret) s = .next { s with pc := s.pc + 2#16 })
  ∧ ∀ (targets : List Imm12) (nnn : Imm12) (s : State), s.sp + targets.length = s.cfg.stackDepth →
    ∃ t, execAll (targets.map .call) s = .next t
      ∧ exec (.call nnn) t = .next (faulted t .stackOverflow (0x2#4 ++ nnn) .none s.cfg.stackDepth)

/-! ### Skips -/

/-- R131, R132: `3XNN` skips when `V[X] = NN`, `4XNN` when `V[X] != NN`; neither writes anything but `PC`. -/
def Obligations.SkipOnImmediate : Prop :=
  ∀ (x : Reg) (nn : Byte) (s : State),
    decode (0x3#4 ++ x ++ nn) = .ok (.seImm x nn) ∧ decode (0x4#4 ++ x ++ nn) = .ok (.sneImm x nn)
    ∧ exec (.seImm x nn) s = .next { s with pc := if s.getV x = nn then s.pc + 4#16 else s.pc + 2#16 }
    ∧ exec (.sneImm x nn) s = .next { s with pc := if s.getV x = nn then s.pc + 2#16 else s.pc + 4#16 }

/-- R133, R134: `5XY0` skips when `V[X] = V[Y]`, `9XY0` when they differ; neither writes anything but `PC`. -/
def Obligations.SkipOnRegisters : Prop :=
  ∀ (x y : Reg) (s : State),
    decode (0x5#4 ++ x ++ y ++ 0x0#4) = .ok (.seReg x y) ∧ decode (0x9#4 ++ x ++ y ++ 0x0#4) = .ok (.sneReg x y)
    ∧ exec (.seReg x y) s = .next { s with pc := if s.getV x = s.getV y then s.pc + 4#16 else s.pc + 2#16 }
    ∧ exec (.sneReg x y) s = .next { s with pc := if s.getV x = s.getV y then s.pc + 2#16 else s.pc + 4#16 }

/-! ### Register loads and arithmetic -/

/-- R141, R142: `6XNN` writes `NN`, `7XNN` the sum modulo 256 with no flag; only `V[X]` and `PC` change. -/
def Obligations.LoadAndAddImmediate : Prop :=
  ∀ (x : Reg) (nn : Byte) (s : State),
    decode (0x6#4 ++ x ++ nn) = .ok (.ldImm x nn) ∧ decode (0x7#4 ++ x ++ nn) = .ok (.addImm x nn)
    ∧ (∃ t, exec (.ldImm x nn) s = .next t ∧ t = { s with v := t.v, pc := s.pc + 2#16 }
        ∧ t.getV x = nn ∧ ∀ r, r ≠ x → t.getV r = s.getV r)
    ∧ (∃ t, exec (.addImm x nn) s = .next t ∧ t = { s with v := t.v, pc := s.pc + 2#16 }
        ∧ (t.getV x).toNat = ((s.getV x).toNat + nn.toNat) % 256 ∧ ∀ r, r ≠ x → t.getV r = s.getV r)

/-- R153: `8XY0` copies `V[Y]` to `V[X]`. -/
def Obligations.CopyRegister : Prop :=
  ∀ (x y : Reg) (s : State), decode (0x8#4 ++ x ++ y ++ 0x0#4) = .ok (.ldReg x y)
    ∧ ∃ t, exec (.ldReg x y) s = .next t ∧ t = { s with v := t.v, pc := s.pc + 2#16 }
      ∧ t.getV x = s.getV y ∧ ∀ r, r ≠ x → t.getV r = s.getV r

/-- R152, R154 to R156: `8XY1`, `8XY2` and `8XY3` write bitwise OR, AND and XOR, bit by bit, to `V[X]`; `VF` is written only as
`V[X]`. -/
def Obligations.LogicOperations : Prop :=
  ∀ (x y : Reg) (s : State),
    decode (0x8#4 ++ x ++ y ++ 0x1#4) = .ok (.orReg x y) ∧ decode (0x8#4 ++ x ++ y ++ 0x2#4) = .ok (.andReg x y)
    ∧ decode (0x8#4 ++ x ++ y ++ 0x3#4) = .ok (.xorReg x y)
    ∧ (∃ t, exec (.orReg x y) s = .next t ∧ t = { s with v := t.v, pc := s.pc + 2#16 }
        ∧ (∀ k, (t.getV x).getLsbD k = ((s.getV x).getLsbD k || (s.getV y).getLsbD k)) ∧ ∀ r, r ≠ x → t.getV r = s.getV r)
    ∧ (∃ t, exec (.andReg x y) s = .next t ∧ t = { s with v := t.v, pc := s.pc + 2#16 }
        ∧ (∀ k, (t.getV x).getLsbD k = ((s.getV x).getLsbD k && (s.getV y).getLsbD k)) ∧ ∀ r, r ≠ x → t.getV r = s.getV r)
    ∧ (∃ t, exec (.xorReg x y) s = .next t ∧ t = { s with v := t.v, pc := s.pc + 2#16 }
        ∧ (∀ k, (t.getV x).getLsbD k = ((s.getV x).getLsbD k != (s.getV y).getLsbD k)) ∧ ∀ r, r ≠ x → t.getV r = s.getV r)

/-- R151, R157: `8XY4` writes the sum modulo 256 to `V[X]` and then the carry to `VF`; with `X = 0xF` the flag is kept. -/
def Obligations.AddRegistersWithCarry : Prop :=
  ∀ (x y : Reg) (s : State), decode (0x8#4 ++ x ++ y ++ 0x4#4) = .ok (.addReg x y)
    ∧ ∃ t, exec (.addReg x y) s = .next t ∧ t = { s with v := t.v, pc := s.pc + 2#16 }
      ∧ (t.getV vf).toNat = (if 255 < (s.getV x).toNat + (s.getV y).toNat then 1 else 0)
      ∧ (x ≠ vf → (t.getV x).toNat = ((s.getV x).toNat + (s.getV y).toNat) % 256)
      ∧ ∀ r, r ≠ x → r ≠ vf → t.getV r = s.getV r

/-- R151, R158, R160: `8XY5` writes `V[X] - V[Y]` and `8XY7` writes `V[Y] - V[X]`, modulo 256, and then NOT borrow to `VF`. -/
def Obligations.SubtractRegistersNotBorrow : Prop :=
  ∀ (x y : Reg) (s : State),
    decode (0x8#4 ++ x ++ y ++ 0x5#4) = .ok (.sub x y) ∧ decode (0x8#4 ++ x ++ y ++ 0x7#4) = .ok (.subn x y)
    ∧ (∃ t, exec (.sub x y) s = .next t ∧ t = { s with v := t.v, pc := s.pc + 2#16 }
        ∧ (t.getV vf).toNat = (if (s.getV y).toNat ≤ (s.getV x).toNat then 1 else 0)
        ∧ (x ≠ vf → (t.getV x).toNat = ((s.getV x).toNat + 256 - (s.getV y).toNat) % 256)
        ∧ ∀ r, r ≠ x → r ≠ vf → t.getV r = s.getV r)
    ∧ (∃ t, exec (.subn x y) s = .next t ∧ t = { s with v := t.v, pc := s.pc + 2#16 }
        ∧ (t.getV vf).toNat = (if (s.getV x).toNat ≤ (s.getV y).toNat then 1 else 0)
        ∧ (x ≠ vf → (t.getV x).toNat = ((s.getV y).toNat + 256 - (s.getV x).toNat) % 256)
        ∧ ∀ r, r ≠ x → r ≠ vf → t.getV r = s.getV r)

/-- R151, R159, R161: `8XY6` and `8XYE` shift the source, `V[Y]` when `Q_SHIFT_VY = 1` and `V[X]` otherwise, right or left by one into `V[X]`,
zero fill, and then write the bit shifted out to `VF`. -/
def Obligations.ShiftsBySourceQuirk : Prop :=
  ∀ (x y : Reg) (s : State) (src : Byte), src = (if s.cfg.qShiftVy = true then s.getV y else s.getV x) →
    decode (0x8#4 ++ x ++ y ++ 0x6#4) = .ok (.shr x y) ∧ decode (0x8#4 ++ x ++ y ++ 0xE#4) = .ok (.shl x y)
    ∧ (∃ t, exec (.shr x y) s = .next t ∧ t = { s with v := t.v, pc := s.pc + 2#16 }
        ∧ (t.getV vf).toNat = src.toNat % 2 ∧ (x ≠ vf → (t.getV x).toNat = src.toNat / 2)
        ∧ ∀ r, r ≠ x → r ≠ vf → t.getV r = s.getV r)
    ∧ (∃ t, exec (.shl x y) s = .next t ∧ t = { s with v := t.v, pc := s.pc + 2#16 }
        ∧ (t.getV vf).toNat = src.toNat / 128 ∧ (x ≠ vf → (t.getV x).toNat = src.toNat * 2 % 256)
        ∧ ∀ r, r ≠ x → r ≠ vf → t.getV r = s.getV r)

/-! ### Index register and random byte -/

/-- R171, R173, R174: `ANNN` writes `NNN` to `I`, `FX1E` adds `V[X]` modulo 65536, `FX29` writes the glyph address of the low nibble (within 16
bits wherever the font lies); only `I` and `PC` change. -/
def Obligations.IndexRegisterWrites : Prop :=
  ∀ (nnn : Imm12) (x : Reg) (s : State),
    decode (0xA#4 ++ nnn) = .ok (.ldI nnn) ∧ decode (0xF#4 ++ x ++ 0x1E#8) = .ok (.addI x)
    ∧ decode (0xF#4 ++ x ++ 0x29#8) = .ok (.ldF x)
    ∧ (∃ t, exec (.ldI nnn) s = .next t ∧ t = { s with i := t.i, pc := s.pc + 2#16 } ∧ t.i.toNat = nnn.toNat)
    ∧ (∃ t, exec (.addI x) s = .next t ∧ t = { s with i := t.i, pc := s.pc + 2#16 }
        ∧ t.i.toNat = (s.i.toNat + (s.getV x).toNat) % 65536)
    ∧ (∃ t, exec (.ldF x) s = .next t ∧ t = { s with i := t.i, pc := s.pc + 2#16 }
        ∧ t.i.toNat = (s.cfg.fontBase.toNat + 5 * ((s.getV x).toNat % 16)) % 65536)

/-- R172: `CXNN` draws one byte and writes its AND with `NN` to `V[X]`, which is at most `NN`. That the byte is the environment's next one if it
has supplied any, and the free value of the draw counter otherwise, is the model's form of the input `rnd` (notes/assumptions/3.md); the
statement holds for every value of both. -/
def Obligations.RandomByteMasked : Prop :=
  ∀ (x : Reg) (nn : Byte) (s : State), decode (0xC#4 ++ x ++ nn) = .ok (.rnd x nn)
    ∧ ∃ (t : State) (r : Byte), exec (.rnd x nn) s = .next t
      ∧ t = { s with v := t.v, rnd := t.rnd, draws := t.draws, pc := s.pc + 2#16 }
      ∧ t.getV x = r &&& nn ∧ (t.getV x).toNat ≤ nn.toNat ∧ (∀ q, q ≠ x → t.getV q = s.getV q)
      ∧ (∀ b rest, s.rnd = b :: rest → r = b ∧ t.rnd = rest ∧ t.draws = s.draws)
      ∧ (s.rnd = [] → r = Config.rndInput s.draws ∧ t.rnd = [] ∧ t.draws = s.draws + 1)

/-! ### Display -/

/-- R181: `00E0` sets all pixels to 0, publishes, and changes nothing else but `PC`. -/
def Obligations.ClearDisplay : Prop :=
  decode 0x00E0#16 = .ok .cls
  ∧ ∀ s : State, ∃ t, exec .cls s = .next t
      ∧ t = { s with disp := t.disp, fcFrame := t.disp, fcPending := true, pc := s.pc + 2#16 }
      ∧ ∀ x y, pixel t.disp x y = false

/-- R182, R183 (and R184, which the spec derives from R182): `DXYN` flips exactly the pixels its sprite reaches with a 1 bit, sets `VF` to 1 if one of them was set and to 0
otherwise, publishes, and changes nothing else but `PC`; when the sprite's last byte lies beyond 4095 it takes `MemBounds`. Drawn again from the
state it leaves, with the same `V[X]` and `V[Y]`, it restores the display and reports whether the first draw left a sprite pixel set. -/
def Obligations.DrawSprite : Prop :=
  ∀ (x y : Reg) (n : Nibble) (s : State), decode (0xD#4 ++ x ++ y ++ n) = .ok (.drw x y n)
    ∧ (0 < n.toNat ∧ 4095 < s.i.toNat + n.toNat - 1 →
        exec (.drw x y n) s = .next (faulted s .memBounds (0xD#4 ++ x ++ y ++ n) .read (max s.i.toNat 4096)))
    ∧ (n.toNat = 0 ∨ s.i.toNat + n.toNat - 1 ≤ 4095 →
        ∃ t, exec (.drw x y n) s = .next t
          ∧ t = { s with v := t.v, disp := t.disp, fcFrame := t.disp, fcPending := true, pc := s.pc + 2#16 }
          ∧ (∀ px < 64, ∀ py < 32, (spriteCovers s x y n px py → pixel t.disp px py = !pixel s.disp px py)
              ∧ (¬ spriteCovers s x y n px py → pixel t.disp px py = pixel s.disp px py))
          ∧ (t.getV vf = 0x01#8 ∨ t.getV vf = 0x00#8)
          ∧ (t.getV vf = 0x01#8 ↔ ∃ px py, spriteCovers s x y n px py ∧ pixel s.disp px py = true)
          ∧ (∀ r, r ≠ vf → t.getV r = s.getV r)
          ∧ (t.getV x = s.getV x → t.getV y = s.getV y → ∃ u, exec (.drw x y n) t = .next u ∧ u.disp = s.disp
              ∧ (u.getV vf = 0x01#8 ↔ ∃ px py, spriteCovers s x y n px py ∧ pixel t.disp px py = true)))

/-! ### Keypad -/

/-- R190 to R192: `EX9E` skips when the key of the low nibble of `V[X]` is pressed, `EXA1` when it is not; neither writes anything but `PC`. -/
def Obligations.SkipOnKey : Prop :=
  ∀ (x : Reg) (s : State),
    decode (0xE#4 ++ x ++ 0x9E#8) = .ok (.skp x) ∧ decode (0xE#4 ++ x ++ 0xA1#8) = .ok (.sknp x)
    ∧ exec (.skp x) s = .next { s with pc := if s.keys.getLsbD ((s.getV x).toNat % 16) = true then s.pc + 4#16 else s.pc + 2#16 }
    ∧ exec (.sknp x) s = .next { s with pc := if s.keys.getLsbD ((s.getV x).toNat % 16) = true then s.pc + 2#16 else s.pc + 4#16 }

/-- R193: `FX0A` records `X`, advances `PC` and suspends the Engine. -/
def Obligations.WaitForKeySuspends : Prop :=
  ∀ (x : Reg) (s : State), decode (0xF#4 ++ x ++ 0x0A#8) = .ok (.ldVxK x)
    ∧ exec (.ldVxK x) s = .next { s with waitX := x, pc := s.pc + 2#16, run := .waitKey }

/-- R194: `Wake` is enabled exactly when `RUN = WAIT_KEY` and a key is down; it writes the lowest pressed key to `V[wait_x]`, resumes, and changes
nothing else. -/
def Obligations.WakeReportsLowestKey : Prop :=
  ∀ s : State,
    (s.run ≠ .waitKey ∨ s.keys = 0x0000#16 → wake s = s)
    ∧ (s.run = .waitKey → perform .engine s = .next (wake s))
    ∧ ∀ k < 16, s.run = .waitKey → s.keys.getLsbD k = true → (∀ j < k, s.keys.getLsbD j = false) →
        (wake s).run = .running ∧ wake s = { s with v := (wake s).v, run := (wake s).run }
        ∧ ((wake s).getV s.waitX).toNat = k ∧ ∀ r, r ≠ s.waitX → (wake s).getV r = s.getV r

/-! ### Timers and the clock -/

/-- R201 to R203: `FX07` reads `DT` into `V[X]`, `FX15` sets `DT` and `FX18` sets `ST` from `V[X]`; `sound_active` is then 1 exactly when `V[X]`
is not 0. The dividers are untouched, so no write re-phases the tick. -/
def Obligations.TimerReadsAndWrites : Prop :=
  ∀ (x : Reg) (s : State),
    decode (0xF#4 ++ x ++ 0x07#8) = .ok (.ldVxDt x) ∧ decode (0xF#4 ++ x ++ 0x15#8) = .ok (.ldDtVx x)
    ∧ decode (0xF#4 ++ x ++ 0x18#8) = .ok (.ldStVx x)
    ∧ (∃ t, exec (.ldVxDt x) s = .next t ∧ t = { s with v := t.v, pc := s.pc + 2#16 }
        ∧ t.getV x = s.dt ∧ ∀ r, r ≠ x → t.getV r = s.getV r)
    ∧ exec (.ldDtVx x) s = .next { s with dt := s.getV x, pc := s.pc + 2#16 }
    ∧ ∃ t, exec (.ldStVx x) s = .next t ∧ t = { s with st := s.getV x, pc := s.pc + 2#16 }
        ∧ (s.run = .running → (t.soundActive = true ↔ (s.getV x).toNat ≠ 0))

/-- R241: a tick takes 1 from each timer that is above 0 and leaves one at 0, unless the machine is halted, and changes nothing else. -/
def Obligations.TickCountsDown : Prop :=
  ∀ s : State, ∃ t, perform .tick s = .next t
    ∧ (s.run = .halted → t = s)
    ∧ (s.run ≠ .halted → t = { s with dt := t.dt, st := t.st } ∧ t.dt.toNat = s.dt.toNat - 1 ∧ t.st.toNat = s.st.toNat - 1)

/-- R241, R243: after `n` ticks with no write between, a timer set to `v` reads `max(v - n, 0)`, while the Engine runs or waits alike. -/
def Obligations.TicksCountToZero : Prop :=
  ∀ (n : Nat) (s : State), s.run ≠ .halted →
    (ticks n s).dt.toNat = s.dt.toNat - n ∧ (ticks n s).st.toNat = s.st.toNat - n
    ∧ ticks n s = { s with dt := (ticks n s).dt, st := (ticks n s).st }

/-- R244: `FX15` then a tick leaves `V[X] - 1`, or 0; a tick then `FX15` leaves `V[X]`; `FX07` reads the value before or the value after a
coinciding tick. -/
def Obligations.TimerWriteAgainstTick : Prop :=
  ∀ (x : Reg) (s : State), s.run ≠ .halted →
    (∃ t, exec (.ldDtVx x) s = .next t ∧ (tick t).dt.toNat = (s.getV x).toNat - 1)
    ∧ (∃ t, exec (.ldDtVx x) (tick s) = .next t ∧ t.dt = s.getV x)
    ∧ (∃ t, exec (.ldVxDt x) s = .next t ∧ t.getV x = s.dt)
    ∧ (∃ t, exec (.ldVxDt x) (tick s) = .next t ∧ (t.getV x).toNat = s.dt.toNat - 1)

/-- R284: `n` edges of a phase accumulator that starts at 0 let exactly `floor(rate * n / CLK_HZ)` events fall, with no drift. -/
def Obligations.DividerNeverDrifts : Prop :=
  ∀ clkHz rate n : Nat, 0 < clkHz → rate ≤ clkHz → divideRun clkHz rate n 0 = (rate * n % clkHz, rate * n / clkHz)

/-- R284, R236: one clock edge. `Tick` comes first and falls exactly when `tdiv + 60` reaches `CLK_HZ`; in the state `u` it leaves, a running
machine executes exactly when `idiv + IPS` reaches `CLK_HZ`, and then wakes if `FX0A` has just suspended it with a key down; a waiting
machine never executes, and wakes on every edge on which a key is down. -/
def Obligations.ClockEdgeOrder : Prop :=
  ∀ s u : State,
    u = (if s.cfg.clkHz ≤ s.tdiv + 60 then { tick s with tdiv := s.tdiv + 60 - s.cfg.clkHz } else { s with tdiv := s.tdiv + 60 }) →
    (s.run = .running →
      (s.idiv + s.cfg.ips < s.cfg.clkHz → perform .clockEdge s = .next { u with idiv := s.idiv + s.cfg.ips })
      ∧ (s.cfg.clkHz ≤ s.idiv + s.cfg.ips →
          perform .clockEdge s = andThen (execStep { u with idiv := s.idiv + s.cfg.ips - s.cfg.clkHz }) (fun t => .next (wake t))))
    ∧ (s.run = .waitKey →
      perform .clockEdge s = .next (wake { u with
        idiv := if s.cfg.clkHz ≤ s.idiv + s.cfg.ips then s.idiv + s.cfg.ips - s.cfg.clkHz else s.idiv + s.cfg.ips }))

/-- R242, R243, R284: while the Engine waits for a key and none is down, `n` clock edges from a cleared accumulator take exactly
`floor(60 n / CLK_HZ)` from each timer, down to 0, and change nothing but the timers and the accumulators. -/
def Obligations.WaitingMachineTicksAtSixtyHertz : Prop :=
  ∀ (n : Nat) (s : State), s.run = .waitKey → s.keys = 0x0000#16 → s.tdiv = 0 → 60 ≤ s.cfg.clkHz →
    ∃ t, Host.Core.run Sys2Proof.core n { s with script := List.replicate n .clockEdge } = .next t
      ∧ t = { s with dt := t.dt, st := t.st, tdiv := t.tdiv, idiv := t.idiv, script := [] }
      ∧ t.dt.toNat = s.dt.toNat - 60 * n / s.cfg.clkHz ∧ t.st.toNat = s.st.toNat - 60 * n / s.cfg.clkHz
      ∧ t.tdiv = 60 * n % s.cfg.clkHz

/-! ### Memory transfer -/

/-- R211: `FX33` stores the hundreds, tens and ones of `V[X]` at `I`, `I + 1`, `I + 2` and changes no other byte and no register but `PC`; when
`I + 2` passes 4095 it takes `MemBounds` and stores nothing. -/
def Obligations.StoreDecimalDigits : Prop :=
  ∀ (x : Reg) (s : State), decode (0xF#4 ++ x ++ 0x33#8) = .ok (.ldB x)
    ∧ (4095 < s.i.toNat + 2 →
        exec (.ldB x) s = .next (faulted s .memBounds (0xF#4 ++ x ++ 0x33#8) .write (max s.i.toNat 4096)))
    ∧ (s.i.toNat + 2 ≤ 4095 → ∃ t, exec (.ldB x) s = .next t ∧ t = { s with mem := t.mem, pc := s.pc + 2#16 }
        ∧ (t.byteAt s.i.toNat).toNat = (s.getV x).toNat / 100
        ∧ (t.byteAt (s.i.toNat + 1)).toNat = (s.getV x).toNat / 10 % 10
        ∧ (t.byteAt (s.i.toNat + 2)).toNat = (s.getV x).toNat % 10
        ∧ ∀ a, a < s.i.toNat ∨ s.i.toNat + 3 ≤ a → t.byteAt a = s.byteAt a)

/-- R212: `FX55` stores `V0` to `V[X]` at `I` to `I + X` and changes no other byte; `I` advances by `X + 1` modulo 65536 when `Q_INC_I = 1` and
stays otherwise; when `I + X` passes 4095 it takes `MemBounds` and does nothing else. -/
def Obligations.StoreRegisters : Prop :=
  ∀ (x : Reg) (s : State), decode (0xF#4 ++ x ++ 0x55#8) = .ok (.stRegs x)
    ∧ (4095 < s.i.toNat + x.toNat →
        exec (.stRegs x) s = .next (faulted s .memBounds (0xF#4 ++ x ++ 0x55#8) .write (max s.i.toNat 4096)))
    ∧ (s.i.toNat + x.toNat ≤ 4095 → ∃ t, exec (.stRegs x) s = .next t
        ∧ t = { s with mem := t.mem, i := t.i, pc := s.pc + 2#16 }
        ∧ t.i.toNat = (if s.cfg.qIncI = true then (s.i.toNat + x.toNat + 1) % 65536 else s.i.toNat)
        ∧ (∀ r : Reg, r.toNat ≤ x.toNat → t.byteAt (s.i.toNat + r.toNat) = s.getV r)
        ∧ ∀ a, a < s.i.toNat ∨ s.i.toNat + x.toNat + 1 ≤ a → t.byteAt a = s.byteAt a)

/-- R213: `FX65` loads `V0` to `V[X]` from `I` to `I + X` and changes no register above and no byte; `I` as in R212; when `I + X` passes 4095 it
takes `MemBounds` and loads nothing. -/
def Obligations.LoadRegisters : Prop :=
  ∀ (x : Reg) (s : State), decode (0xF#4 ++ x ++ 0x65#8) = .ok (.ldRegs x)
    ∧ (4095 < s.i.toNat + x.toNat →
        exec (.ldRegs x) s = .next (faulted s .memBounds (0xF#4 ++ x ++ 0x65#8) .read (max s.i.toNat 4096)))
    ∧ (s.i.toNat + x.toNat ≤ 4095 → ∃ t, exec (.ldRegs x) s = .next t
        ∧ t = { s with v := t.v, i := t.i, pc := s.pc + 2#16 }
        ∧ t.i.toNat = (if s.cfg.qIncI = true then (s.i.toNat + x.toNat + 1) % 65536 else s.i.toNat)
        ∧ (∀ r : Reg, r.toNat ≤ x.toNat → t.getV r = s.byteAt (s.i.toNat + r.toNat))
        ∧ ∀ r : Reg, x.toNat < r.toNat → t.getV r = s.getV r)

/-- From R212 and R213 (the spec's own inference R214): `FX55` then `FX65` with the same `X` restores every register when `Q_INC_I = 0`; when `Q_INC_I = 1` the second reads the bytes after the
stored block. -/
def Obligations.StoreThenLoadRegisters : Prop :=
  ∀ (x : Reg) (s : State),
    (s.cfg.qIncI = false → s.i.toNat + x.toNat ≤ 4095 →
      ∃ t, execAll [.stRegs x, .ldRegs x] s = .next t ∧ t = { s with mem := t.mem, pc := s.pc + 4#16 })
    ∧ (s.cfg.qIncI = true → s.i.toNat + 2 * (x.toNat + 1) ≤ 4096 →
      ∃ t, execAll [.stRegs x, .ldRegs x] s = .next t
        ∧ (∀ r : Reg, r.toNat ≤ x.toNat → t.getV r = s.byteAt (s.i.toNat + x.toNat + 1 + r.toNat))
        ∧ ∀ r : Reg, x.toNat < r.toNat → t.getV r = s.getV r)
end

