-- ==== Sys2Proof/Laws/Memory.lean ====
section
/-! SUPPORT. The laws of memory: a read after a write to the same address gives the byte written, a write leaves every other address
alone, every memory operation keeps the canonical form, and canonical memories that read alike are equal. -/

namespace Sys2Proof.Machine

variable {fb a b : Nat} {x : Byte} {m : Memory}

/-- The empty memory, which State.reset has, is canonical. -/
theorem Memory.wf_nil : Memory.wf fb [] := by simp [Memory.wf]

theorem Memory.lookup_entry (c : Nat) : List.lookup b ((c, x) :: m) = if b = c then some x else m.lookup b := by
  by_cases h : b = c
  · simp [h]
  · have hf : (b == c) = false := by simpa using h
    rw [List.lookup, hf, if_neg h]

theorem Memory.lookup_put : (Memory.put a x m).lookup b = if b = a then some x else m.lookup b := by
  induction m with
  | nil => rw [Memory.put, Memory.lookup_entry]
  | cons c m ih =>
    obtain ⟨c1, c2⟩ := c
    simp only [Memory.put]
    split
    · rw [Memory.lookup_entry]
    · split
      · next hac => subst hac; simp only [Memory.lookup_entry]; split <;> rfl
      · next hac => simp only [Memory.lookup_entry, ih]; split <;> [rw [if_neg (by omega)]; rfl]

theorem Memory.lookup_drop : (Memory.drop a m).lookup b = if b = a then none else m.lookup b := by
  induction m with
  | nil => simp [Memory.drop]
  | cons c m ih =>
    obtain ⟨c1, c2⟩ := c
    unfold Memory.drop at *
    by_cases hca : c1 = a
    · subst hca
      simp only [List.filter_cons, bne_self_eq_false, Bool.false_eq_true, if_false, Memory.lookup_entry, ih]
      split <;> rfl
    · simp only [List.filter_cons, bne_iff_ne.2 hca, if_true, Memory.lookup_entry, ih]
      split <;> [rw [if_neg (by omega)]; rfl]

theorem Memory.read_write_same (h : a < 4096) : Memory.read fb (Memory.write fb m a x) a = x := by
  unfold Memory.read Memory.write
  rw [if_neg (by omega)]
  split
  · next hx => simp [Memory.lookup_drop, hx]
  · simp [Memory.lookup_put]

theorem Memory.read_write_other (h : b ≠ a) : Memory.read fb (Memory.write fb m a x) b = Memory.read fb m b := by
  unfold Memory.read Memory.write
  split
  · rfl
  · split
    · simp [Memory.lookup_drop, h]
    · simp [Memory.lookup_put, h]

theorem Memory.mem_put {c : Host.Cell} (h : c ∈ Memory.put a x m) : c = (a, x) ∨ c ∈ m := by
  induction m with
  | nil => exact .inl (by simpa [Memory.put] using h)
  | cons d m ih =>
    simp only [Memory.put] at h
    split at h
    · simpa using h
    · split at h
      · obtain h | h := List.mem_cons.1 h
        · exact .inl h
        · exact .inr (List.mem_cons_of_mem _ h)
      · obtain h | h := List.mem_cons.1 h
        · exact .inr (h ▸ List.mem_cons_self)
        · exact (ih h).imp_right (List.mem_cons_of_mem _)

theorem Memory.put_rising (h : m.Pairwise (fun c d => c.1 < d.1)) :
    (Memory.put a x m).Pairwise (fun c d => c.1 < d.1) := by
  induction m with
  | nil => simp [Memory.put]
  | cons d m ih =>
    obtain ⟨hd, hm⟩ := List.pairwise_cons.1 h
    simp only [Memory.put]
    split
    · next had =>
      refine List.pairwise_cons.2 ⟨fun c hc => ?_, h⟩
      obtain rfl | hc := List.mem_cons.1 hc
      · exact had
      · exact had.trans (hd c hc)
    · split
      · next had => exact List.pairwise_cons.2 ⟨fun c hc => had ▸ hd c hc, hm⟩
      · next h1 h2 =>
        refine List.pairwise_cons.2 ⟨fun c hc => ?_, ih hm⟩
        obtain rfl | hc := Memory.mem_put hc
        · show d.1 < a
          omega
        · exact hd c hc

/-- A write keeps the canonical form. -/
theorem Memory.wf_write (h : Memory.wf fb m) : Memory.wf fb (Memory.write fb m a x) := by
  unfold Memory.write
  split
  · exact h
  · next ha =>
    split
    · exact ⟨h.1.filter _, fun c hc => h.2 c (List.mem_of_mem_filter hc)⟩
    · next hx =>
      refine ⟨Memory.put_rising h.1, fun c hc => ?_⟩
      obtain rfl | hc := Memory.mem_put hc
      · exact ⟨by show a < 4096; omega, hx⟩
      · exact h.2 c hc

/-- Placing an image keeps the canonical form. -/
theorem Memory.wf_place (bs : List Byte) (h : Memory.wf fb m) : Memory.wf fb (Memory.place fb m a bs) := by
  induction bs generalizing a m with
  | nil => exact h
  | cons b bs ih => exact ih (Memory.wf_write h)

/-- What a placed image reads as: its own byte inside it, what was there before outside it. -/
theorem Memory.read_place (bs : List Byte) (h : a + bs.length ≤ 4096) :
    Memory.read fb (Memory.place fb m a bs) b = if h : a ≤ b ∧ b - a < bs.length then bs[b - a]'h.2 else Memory.read fb m b := by
  induction bs generalizing a m with
  | nil => simp [Memory.place]
  | cons y ys ih =>
    rw [Memory.place, ih (by simp at h; omega)]
    by_cases h1 : a + 1 ≤ b ∧ b - (a + 1) < ys.length
    · have hb : b - a = b - (a + 1) + 1 := by omega
      rw [dif_pos h1, dif_pos ⟨by omega, by simp; omega⟩]
      simp only [hb, List.getElem_cons_succ]
    · rw [dif_neg h1]
      by_cases h2 : b = a
      · subst h2
        rw [Memory.read_write_same (by simp at h; omega)]
        simp
      · rw [Memory.read_write_other h2, dif_neg (by simp; omega)]

end Sys2Proof.Machine
end

