-- ==== Sys2Proof/Laws/State.lean ====
section
/-! SUPPORT. What each update of the state does to each field, and to the readings `getV`, `byteAt` and `sp`: one lemma per field
per update, so that no proof unfolds a record update. -/

namespace Sys2Proof.Machine

variable (s : State)

/-! `State.setV` -/

@[simp] theorem State.setV_v (x : Reg) (b : Byte) : (s.setV x b).v = s.v.set x.toNat b x.isLt := rfl
@[simp] theorem State.setV_i (x : Reg) (b : Byte) : (s.setV x b).i = s.i := rfl
@[simp] theorem State.setV_pc (x : Reg) (b : Byte) : (s.setV x b).pc = s.pc := rfl
@[simp] theorem State.setV_dt (x : Reg) (b : Byte) : (s.setV x b).dt = s.dt := rfl
@[simp] theorem State.setV_st (x : Reg) (b : Byte) : (s.setV x b).st = s.st := rfl
@[simp] theorem State.setV_stack (x : Reg) (b : Byte) : (s.setV x b).stack = s.stack := rfl
@[simp] theorem State.setV_mem (x : Reg) (b : Byte) : (s.setV x b).mem = s.mem := rfl
@[simp] theorem State.setV_disp (x : Reg) (b : Byte) : (s.setV x b).disp = s.disp := rfl
@[simp] theorem State.setV_keys (x : Reg) (b : Byte) : (s.setV x b).keys = s.keys := rfl
@[simp] theorem State.setV_rnd (x : Reg) (b : Byte) : (s.setV x b).rnd = s.rnd := rfl
@[simp] theorem State.setV_draws (x : Reg) (b : Byte) : (s.setV x b).draws = s.draws := rfl
@[simp] theorem State.setV_run (x : Reg) (b : Byte) : (s.setV x b).run = s.run := rfl
@[simp] theorem State.setV_waitX (x : Reg) (b : Byte) : (s.setV x b).waitX = s.waitX := rfl
@[simp] theorem State.setV_fcFrame (x : Reg) (b : Byte) : (s.setV x b).fcFrame = s.fcFrame := rfl
@[simp] theorem State.setV_fcPending (x : Reg) (b : Byte) : (s.setV x b).fcPending = s.fcPending := rfl
@[simp] theorem State.setV_faultKind (x : Reg) (b : Byte) : (s.setV x b).faultKind = s.faultKind := rfl
@[simp] theorem State.setV_faultPc (x : Reg) (b : Byte) : (s.setV x b).faultPc = s.faultPc := rfl
@[simp] theorem State.setV_faultOpcode (x : Reg) (b : Byte) : (s.setV x b).faultOpcode = s.faultOpcode := rfl
@[simp] theorem State.setV_faultOp (x : Reg) (b : Byte) : (s.setV x b).faultOp = s.faultOp := rfl
@[simp] theorem State.setV_faultAddr (x : Reg) (b : Byte) : (s.setV x b).faultAddr = s.faultAddr := rfl
@[simp] theorem State.setV_cfg (x : Reg) (b : Byte) : (s.setV x b).cfg = s.cfg := rfl
@[simp] theorem State.setV_tdiv (x : Reg) (b : Byte) : (s.setV x b).tdiv = s.tdiv := rfl
@[simp] theorem State.setV_idiv (x : Reg) (b : Byte) : (s.setV x b).idiv = s.idiv := rfl
@[simp] theorem State.setV_script (x : Reg) (b : Byte) : (s.setV x b).script = s.script := rfl
@[simp] theorem State.setV_byteAt (x : Reg) (b : Byte) (q : Nat) : (s.setV x b).byteAt q = s.byteAt q := rfl
@[simp] theorem State.setV_sp (x : Reg) (b : Byte) : (s.setV x b).sp = s.sp := rfl

/-! `State.setI` -/

@[simp] theorem State.setI_v (w : Word) : (s.setI w).v = s.v := rfl
@[simp] theorem State.setI_i (w : Word) : (s.setI w).i = w := rfl
@[simp] theorem State.setI_pc (w : Word) : (s.setI w).pc = s.pc := rfl
@[simp] theorem State.setI_dt (w : Word) : (s.setI w).dt = s.dt := rfl
@[simp] theorem State.setI_st (w : Word) : (s.setI w).st = s.st := rfl
@[simp] theorem State.setI_stack (w : Word) : (s.setI w).stack = s.stack := rfl
@[simp] theorem State.setI_mem (w : Word) : (s.setI w).mem = s.mem := rfl
@[simp] theorem State.setI_disp (w : Word) : (s.setI w).disp = s.disp := rfl
@[simp] theorem State.setI_keys (w : Word) : (s.setI w).keys = s.keys := rfl
@[simp] theorem State.setI_rnd (w : Word) : (s.setI w).rnd = s.rnd := rfl
@[simp] theorem State.setI_draws (w : Word) : (s.setI w).draws = s.draws := rfl
@[simp] theorem State.setI_run (w : Word) : (s.setI w).run = s.run := rfl
@[simp] theorem State.setI_waitX (w : Word) : (s.setI w).waitX = s.waitX := rfl
@[simp] theorem State.setI_fcFrame (w : Word) : (s.setI w).fcFrame = s.fcFrame := rfl
@[simp] theorem State.setI_fcPending (w : Word) : (s.setI w).fcPending = s.fcPending := rfl
@[simp] theorem State.setI_faultKind (w : Word) : (s.setI w).faultKind = s.faultKind := rfl
@[simp] theorem State.setI_faultPc (w : Word) : (s.setI w).faultPc = s.faultPc := rfl
@[simp] theorem State.setI_faultOpcode (w : Word) : (s.setI w).faultOpcode = s.faultOpcode := rfl
@[simp] theorem State.setI_faultOp (w : Word) : (s.setI w).faultOp = s.faultOp := rfl
@[simp] theorem State.setI_faultAddr (w : Word) : (s.setI w).faultAddr = s.faultAddr := rfl
@[simp] theorem State.setI_cfg (w : Word) : (s.setI w).cfg = s.cfg := rfl
@[simp] theorem State.setI_tdiv (w : Word) : (s.setI w).tdiv = s.tdiv := rfl
@[simp] theorem State.setI_idiv (w : Word) : (s.setI w).idiv = s.idiv := rfl
@[simp] theorem State.setI_script (w : Word) : (s.setI w).script = s.script := rfl
@[simp] theorem State.setI_getV (w : Word) (r : Reg) : (s.setI w).getV r = s.getV r := rfl
@[simp] theorem State.setI_byteAt (w : Word) (q : Nat) : (s.setI w).byteAt q = s.byteAt q := rfl
@[simp] theorem State.setI_sp (w : Word) : (s.setI w).sp = s.sp := rfl

/-! `State.setDt` -/

@[simp] theorem State.setDt_v (b : Byte) : (s.setDt b).v = s.v := rfl
@[simp] theorem State.setDt_i (b : Byte) : (s.setDt b).i = s.i := rfl
@[simp] theorem State.setDt_pc (b : Byte) : (s.setDt b).pc = s.pc := rfl
@[simp] theorem State.setDt_dt (b : Byte) : (s.setDt b).dt = b := rfl
@[simp] theorem State.setDt_st (b : Byte) : (s.setDt b).st = s.st := rfl
@[simp] theorem State.setDt_stack (b : Byte) : (s.setDt b).stack = s.stack := rfl
@[simp] theorem State.setDt_mem (b : Byte) : (s.setDt b).mem = s.mem := rfl
@[simp] theorem State.setDt_disp (b : Byte) : (s.setDt b).disp = s.disp := rfl
@[simp] theorem State.setDt_keys (b : Byte) : (s.setDt b).keys = s.keys := rfl
@[simp] theorem State.setDt_rnd (b : Byte) : (s.setDt b).rnd = s.rnd := rfl
@[simp] theorem State.setDt_draws (b : Byte) : (s.setDt b).draws = s.draws := rfl
@[simp] theorem State.setDt_run (b : Byte) : (s.setDt b).run = s.run := rfl
@[simp] theorem State.setDt_waitX (b : Byte) : (s.setDt b).waitX = s.waitX := rfl
@[simp] theorem State.setDt_fcFrame (b : Byte) : (s.setDt b).fcFrame = s.fcFrame := rfl
@[simp] theorem State.setDt_fcPending (b : Byte) : (s.setDt b).fcPending = s.fcPending := rfl
@[simp] theorem State.setDt_faultKind (b : Byte) : (s.setDt b).faultKind = s.faultKind := rfl
@[simp] theorem State.setDt_faultPc (b : Byte) : (s.setDt b).faultPc = s.faultPc := rfl
@[simp] theorem State.setDt_faultOpcode (b : Byte) : (s.setDt b).faultOpcode = s.faultOpcode := rfl
@[simp] theorem State.setDt_faultOp (b : Byte) : (s.setDt b).faultOp = s.faultOp := rfl
@[simp] theorem State.setDt_faultAddr (b : Byte) : (s.setDt b).faultAddr = s.faultAddr := rfl
@[simp] theorem State.setDt_cfg (b : Byte) : (s.setDt b).cfg = s.cfg := rfl
@[simp] theorem State.setDt_tdiv (b : Byte) : (s.setDt b).tdiv = s.tdiv := rfl
@[simp] theorem State.setDt_idiv (b : Byte) : (s.setDt b).idiv = s.idiv := rfl
@[simp] theorem State.setDt_script (b : Byte) : (s.setDt b).script = s.script := rfl
@[simp] theorem State.setDt_getV (b : Byte) (r : Reg) : (s.setDt b).getV r = s.getV r := rfl
@[simp] theorem State.setDt_byteAt (b : Byte) (q : Nat) : (s.setDt b).byteAt q = s.byteAt q := rfl
@[simp] theorem State.setDt_sp (b : Byte) : (s.setDt b).sp = s.sp := rfl

/-! `State.setSt` -/

@[simp] theorem State.setSt_v (b : Byte) : (s.setSt b).v = s.v := rfl
@[simp] theorem State.setSt_i (b : Byte) : (s.setSt b).i = s.i := rfl
@[simp] theorem State.setSt_pc (b : Byte) : (s.setSt b).pc = s.pc := rfl
@[simp] theorem State.setSt_dt (b : Byte) : (s.setSt b).dt = s.dt := rfl
@[simp] theorem State.setSt_st (b : Byte) : (s.setSt b).st = b := rfl
@[simp] theorem State.setSt_stack (b : Byte) : (s.setSt b).stack = s.stack := rfl
@[simp] theorem State.setSt_mem (b : Byte) : (s.setSt b).mem = s.mem := rfl
@[simp] theorem State.setSt_disp (b : Byte) : (s.setSt b).disp = s.disp := rfl
@[simp] theorem State.setSt_keys (b : Byte) : (s.setSt b).keys = s.keys := rfl
@[simp] theorem State.setSt_rnd (b : Byte) : (s.setSt b).rnd = s.rnd := rfl
@[simp] theorem State.setSt_draws (b : Byte) : (s.setSt b).draws = s.draws := rfl
@[simp] theorem State.setSt_run (b : Byte) : (s.setSt b).run = s.run := rfl
@[simp] theorem State.setSt_waitX (b : Byte) : (s.setSt b).waitX = s.waitX := rfl
@[simp] theorem State.setSt_fcFrame (b : Byte) : (s.setSt b).fcFrame = s.fcFrame := rfl
@[simp] theorem State.setSt_fcPending (b : Byte) : (s.setSt b).fcPending = s.fcPending := rfl
@[simp] theorem State.setSt_faultKind (b : Byte) : (s.setSt b).faultKind = s.faultKind := rfl
@[simp] theorem State.setSt_faultPc (b : Byte) : (s.setSt b).faultPc = s.faultPc := rfl
@[simp] theorem State.setSt_faultOpcode (b : Byte) : (s.setSt b).faultOpcode = s.faultOpcode := rfl
@[simp] theorem State.setSt_faultOp (b : Byte) : (s.setSt b).faultOp = s.faultOp := rfl
@[simp] theorem State.setSt_faultAddr (b : Byte) : (s.setSt b).faultAddr = s.faultAddr := rfl
@[simp] theorem State.setSt_cfg (b : Byte) : (s.setSt b).cfg = s.cfg := rfl
@[simp] theorem State.setSt_tdiv (b : Byte) : (s.setSt b).tdiv = s.tdiv := rfl
@[simp] theorem State.setSt_idiv (b : Byte) : (s.setSt b).idiv = s.idiv := rfl
@[simp] theorem State.setSt_script (b : Byte) : (s.setSt b).script = s.script := rfl
@[simp] theorem State.setSt_getV (b : Byte) (r : Reg) : (s.setSt b).getV r = s.getV r := rfl
@[simp] theorem State.setSt_byteAt (b : Byte) (q : Nat) : (s.setSt b).byteAt q = s.byteAt q := rfl
@[simp] theorem State.setSt_sp (b : Byte) : (s.setSt b).sp = s.sp := rfl

/-! `State.jumpTo` -/

@[simp] theorem State.jumpTo_v (w : Word) : (s.jumpTo w).v = s.v := rfl
@[simp] theorem State.jumpTo_i (w : Word) : (s.jumpTo w).i = s.i := rfl
@[simp] theorem State.jumpTo_pc (w : Word) : (s.jumpTo w).pc = w := rfl
@[simp] theorem State.jumpTo_dt (w : Word) : (s.jumpTo w).dt = s.dt := rfl
@[simp] theorem State.jumpTo_st (w : Word) : (s.jumpTo w).st = s.st := rfl
@[simp] theorem State.jumpTo_stack (w : Word) : (s.jumpTo w).stack = s.stack := rfl
@[simp] theorem State.jumpTo_mem (w : Word) : (s.jumpTo w).mem = s.mem := rfl
@[simp] theorem State.jumpTo_disp (w : Word) : (s.jumpTo w).disp = s.disp := rfl
@[simp] theorem State.jumpTo_keys (w : Word) : (s.jumpTo w).keys = s.keys := rfl
@[simp] theorem State.jumpTo_rnd (w : Word) : (s.jumpTo w).rnd = s.rnd := rfl
@[simp] theorem State.jumpTo_draws (w : Word) : (s.jumpTo w).draws = s.draws := rfl
@[simp] theorem State.jumpTo_run (w : Word) : (s.jumpTo w).run = s.run := rfl
@[simp] theorem State.jumpTo_waitX (w : Word) : (s.jumpTo w).waitX = s.waitX := rfl
@[simp] theorem State.jumpTo_fcFrame (w : Word) : (s.jumpTo w).fcFrame = s.fcFrame := rfl
@[simp] theorem State.jumpTo_fcPending (w : Word) : (s.jumpTo w).fcPending = s.fcPending := rfl
@[simp] theorem State.jumpTo_faultKind (w : Word) : (s.jumpTo w).faultKind = s.faultKind := rfl
@[simp] theorem State.jumpTo_faultPc (w : Word) : (s.jumpTo w).faultPc = s.faultPc := rfl
@[simp] theorem State.jumpTo_faultOpcode (w : Word) : (s.jumpTo w).faultOpcode = s.faultOpcode := rfl
@[simp] theorem State.jumpTo_faultOp (w : Word) : (s.jumpTo w).faultOp = s.faultOp := rfl
@[simp] theorem State.jumpTo_faultAddr (w : Word) : (s.jumpTo w).faultAddr = s.faultAddr := rfl
@[simp] theorem State.jumpTo_cfg (w : Word) : (s.jumpTo w).cfg = s.cfg := rfl
@[simp] theorem State.jumpTo_tdiv (w : Word) : (s.jumpTo w).tdiv = s.tdiv := rfl
@[simp] theorem State.jumpTo_idiv (w : Word) : (s.jumpTo w).idiv = s.idiv := rfl
@[simp] theorem State.jumpTo_script (w : Word) : (s.jumpTo w).script = s.script := rfl
@[simp] theorem State.jumpTo_getV (w : Word) (r : Reg) : (s.jumpTo w).getV r = s.getV r := rfl
@[simp] theorem State.jumpTo_byteAt (w : Word) (q : Nat) : (s.jumpTo w).byteAt q = s.byteAt q := rfl
@[simp] theorem State.jumpTo_sp (w : Word) : (s.jumpTo w).sp = s.sp := rfl

/-! `State.advance` -/

@[simp] theorem State.advance_v : s.advance.v = s.v := rfl
@[simp] theorem State.advance_i : s.advance.i = s.i := rfl
@[simp] theorem State.advance_pc : s.advance.pc = s.pc + 2#16 := rfl
@[simp] theorem State.advance_dt : s.advance.dt = s.dt := rfl
@[simp] theorem State.advance_st : s.advance.st = s.st := rfl
@[simp] theorem State.advance_stack : s.advance.stack = s.stack := rfl
@[simp] theorem State.advance_mem : s.advance.mem = s.mem := rfl
@[simp] theorem State.advance_disp : s.advance.disp = s.disp := rfl
@[simp] theorem State.advance_keys : s.advance.keys = s.keys := rfl
@[simp] theorem State.advance_rnd : s.advance.rnd = s.rnd := rfl
@[simp] theorem State.advance_draws : s.advance.draws = s.draws := rfl
@[simp] theorem State.advance_run : s.advance.run = s.run := rfl
@[simp] theorem State.advance_waitX : s.advance.waitX = s.waitX := rfl
@[simp] theorem State.advance_fcFrame : s.advance.fcFrame = s.fcFrame := rfl
@[simp] theorem State.advance_fcPending : s.advance.fcPending = s.fcPending := rfl
@[simp] theorem State.advance_faultKind : s.advance.faultKind = s.faultKind := rfl
@[simp] theorem State.advance_faultPc : s.advance.faultPc = s.faultPc := rfl
@[simp] theorem State.advance_faultOpcode : s.advance.faultOpcode = s.faultOpcode := rfl
@[simp] theorem State.advance_faultOp : s.advance.faultOp = s.faultOp := rfl
@[simp] theorem State.advance_faultAddr : s.advance.faultAddr = s.faultAddr := rfl
@[simp] theorem State.advance_cfg : s.advance.cfg = s.cfg := rfl
@[simp] theorem State.advance_tdiv : s.advance.tdiv = s.tdiv := rfl
@[simp] theorem State.advance_idiv : s.advance.idiv = s.idiv := rfl
@[simp] theorem State.advance_script : s.advance.script = s.script := rfl
@[simp] theorem State.advance_getV (r : Reg) : s.advance.getV r = s.getV r := rfl
@[simp] theorem State.advance_byteAt (q : Nat) : s.advance.byteAt q = s.byteAt q := rfl
@[simp] theorem State.advance_sp : s.advance.sp = s.sp := rfl

/-! `State.skipIf` -/

@[simp] theorem State.skipIf_v (c : Bool) : (s.skipIf c).v = s.v := rfl
@[simp] theorem State.skipIf_i (c : Bool) : (s.skipIf c).i = s.i := rfl
@[simp] theorem State.skipIf_pc (c : Bool) : (s.skipIf c).pc = if c then s.pc + 4#16 else s.pc + 2#16 := rfl
@[simp] theorem State.skipIf_dt (c : Bool) : (s.skipIf c).dt = s.dt := rfl
@[simp] theorem State.skipIf_st (c : Bool) : (s.skipIf c).st = s.st := rfl
@[simp] theorem State.skipIf_stack (c : Bool) : (s.skipIf c).stack = s.stack := rfl
@[simp] theorem State.skipIf_mem (c : Bool) : (s.skipIf c).mem = s.mem := rfl
@[simp] theorem State.skipIf_disp (c : Bool) : (s.skipIf c).disp = s.disp := rfl
@[simp] theorem State.skipIf_keys (c : Bool) : (s.skipIf c).keys = s.keys := rfl
@[simp] theorem State.skipIf_rnd (c : Bool) : (s.skipIf c).rnd = s.rnd := rfl
@[simp] theorem State.skipIf_draws (c : Bool) : (s.skipIf c).draws = s.draws := rfl
@[simp] theorem State.skipIf_run (c : Bool) : (s.skipIf c).run = s.run := rfl
@[simp] theorem State.skipIf_waitX (c : Bool) : (s.skipIf c).waitX = s.waitX := rfl
@[simp] theorem State.skipIf_fcFrame (c : Bool) : (s.skipIf c).fcFrame = s.fcFrame := rfl
@[simp] theorem State.skipIf_fcPending (c : Bool) : (s.skipIf c).fcPending = s.fcPending := rfl
@[simp] theorem State.skipIf_faultKind (c : Bool) : (s.skipIf c).faultKind = s.faultKind := rfl
@[simp] theorem State.skipIf_faultPc (c : Bool) : (s.skipIf c).faultPc = s.faultPc := rfl
@[simp] theorem State.skipIf_faultOpcode (c : Bool) : (s.skipIf c).faultOpcode = s.faultOpcode := rfl
@[simp] theorem State.skipIf_faultOp (c : Bool) : (s.skipIf c).faultOp = s.faultOp := rfl
@[simp] theorem State.skipIf_faultAddr (c : Bool) : (s.skipIf c).faultAddr = s.faultAddr := rfl
@[simp] theorem State.skipIf_cfg (c : Bool) : (s.skipIf c).cfg = s.cfg := rfl
@[simp] theorem State.skipIf_tdiv (c : Bool) : (s.skipIf c).tdiv = s.tdiv := rfl
@[simp] theorem State.skipIf_idiv (c : Bool) : (s.skipIf c).idiv = s.idiv := rfl
@[simp] theorem State.skipIf_script (c : Bool) : (s.skipIf c).script = s.script := rfl
@[simp] theorem State.skipIf_getV (c : Bool) (r : Reg) : (s.skipIf c).getV r = s.getV r := rfl
@[simp] theorem State.skipIf_byteAt (c : Bool) (q : Nat) : (s.skipIf c).byteAt q = s.byteAt q := rfl
@[simp] theorem State.skipIf_sp (c : Bool) : (s.skipIf c).sp = s.sp := rfl

/-! `State.setByte` -/

@[simp] theorem State.setByte_v (a : Nat) (b : Byte) : (s.setByte a b).v = s.v := rfl
@[simp] theorem State.setByte_i (a : Nat) (b : Byte) : (s.setByte a b).i = s.i := rfl
@[simp] theorem State.setByte_pc (a : Nat) (b : Byte) : (s.setByte a b).pc = s.pc := rfl
@[simp] theorem State.setByte_dt (a : Nat) (b : Byte) : (s.setByte a b).dt = s.dt := rfl
@[simp] theorem State.setByte_st (a : Nat) (b : Byte) : (s.setByte a b).st = s.st := rfl
@[simp] theorem State.setByte_stack (a : Nat) (b : Byte) : (s.setByte a b).stack = s.stack := rfl
@[simp] theorem State.setByte_mem (a : Nat) (b : Byte) : (s.setByte a b).mem = s.mem.write s.cfg.fontBase.toNat a b := rfl
@[simp] theorem State.setByte_disp (a : Nat) (b : Byte) : (s.setByte a b).disp = s.disp := rfl
@[simp] theorem State.setByte_keys (a : Nat) (b : Byte) : (s.setByte a b).keys = s.keys := rfl
@[simp] theorem State.setByte_rnd (a : Nat) (b : Byte) : (s.setByte a b).rnd = s.rnd := rfl
@[simp] theorem State.setByte_draws (a : Nat) (b : Byte) : (s.setByte a b).draws = s.draws := rfl
@[simp] theorem State.setByte_run (a : Nat) (b : Byte) : (s.setByte a b).run = s.run := rfl
@[simp] theorem State.setByte_waitX (a : Nat) (b : Byte) : (s.setByte a b).waitX = s.waitX := rfl
@[simp] theorem State.setByte_fcFrame (a : Nat) (b : Byte) : (s.setByte a b).fcFrame = s.fcFrame := rfl
@[simp] theorem State.setByte_fcPending (a : Nat) (b : Byte) : (s.setByte a b).fcPending = s.fcPending := rfl
@[simp] theorem State.setByte_faultKind (a : Nat) (b : Byte) : (s.setByte a b).faultKind = s.faultKind := rfl
@[simp] theorem State.setByte_faultPc (a : Nat) (b : Byte) : (s.setByte a b).faultPc = s.faultPc := rfl
@[simp] theorem State.setByte_faultOpcode (a : Nat) (b : Byte) : (s.setByte a b).faultOpcode = s.faultOpcode := rfl
@[simp] theorem State.setByte_faultOp (a : Nat) (b : Byte) : (s.setByte a b).faultOp = s.faultOp := rfl
@[simp] theorem State.setByte_faultAddr (a : Nat) (b : Byte) : (s.setByte a b).faultAddr = s.faultAddr := rfl
@[simp] theorem State.setByte_cfg (a : Nat) (b : Byte) : (s.setByte a b).cfg = s.cfg := rfl
@[simp] theorem State.setByte_tdiv (a : Nat) (b : Byte) : (s.setByte a b).tdiv = s.tdiv := rfl
@[simp] theorem State.setByte_idiv (a : Nat) (b : Byte) : (s.setByte a b).idiv = s.idiv := rfl
@[simp] theorem State.setByte_script (a : Nat) (b : Byte) : (s.setByte a b).script = s.script := rfl
@[simp] theorem State.setByte_getV (a : Nat) (b : Byte) (r : Reg) : (s.setByte a b).getV r = s.getV r := rfl
@[simp] theorem State.setByte_sp (a : Nat) (b : Byte) : (s.setByte a b).sp = s.sp := rfl

/-! `State.push` -/

@[simp] theorem State.push_v (w : Word) : (s.push w).v = s.v := rfl
@[simp] theorem State.push_i (w : Word) : (s.push w).i = s.i := rfl
@[simp] theorem State.push_pc (w : Word) : (s.push w).pc = s.pc := rfl
@[simp] theorem State.push_dt (w : Word) : (s.push w).dt = s.dt := rfl
@[simp] theorem State.push_st (w : Word) : (s.push w).st = s.st := rfl
@[simp] theorem State.push_stack (w : Word) : (s.push w).stack = s.stack ++ [w] := rfl
@[simp] theorem State.push_mem (w : Word) : (s.push w).mem = s.mem := rfl
@[simp] theorem State.push_disp (w : Word) : (s.push w).disp = s.disp := rfl
@[simp] theorem State.push_keys (w : Word) : (s.push w).keys = s.keys := rfl
@[simp] theorem State.push_rnd (w : Word) : (s.push w).rnd = s.rnd := rfl
@[simp] theorem State.push_draws (w : Word) : (s.push w).draws = s.draws := rfl
@[simp] theorem State.push_run (w : Word) : (s.push w).run = s.run := rfl
@[simp] theorem State.push_waitX (w : Word) : (s.push w).waitX = s.waitX := rfl
@[simp] theorem State.push_fcFrame (w : Word) : (s.push w).fcFrame = s.fcFrame := rfl
@[simp] theorem State.push_fcPending (w : Word) : (s.push w).fcPending = s.fcPending := rfl
@[simp] theorem State.push_faultKind (w : Word) : (s.push w).faultKind = s.faultKind := rfl
@[simp] theorem State.push_faultPc (w : Word) : (s.push w).faultPc = s.faultPc := rfl
@[simp] theorem State.push_faultOpcode (w : Word) : (s.push w).faultOpcode = s.faultOpcode := rfl
@[simp] theorem State.push_faultOp (w : Word) : (s.push w).faultOp = s.faultOp := rfl
@[simp] theorem State.push_faultAddr (w : Word) : (s.push w).faultAddr = s.faultAddr := rfl
@[simp] theorem State.push_cfg (w : Word) : (s.push w).cfg = s.cfg := rfl
@[simp] theorem State.push_tdiv (w : Word) : (s.push w).tdiv = s.tdiv := rfl
@[simp] theorem State.push_idiv (w : Word) : (s.push w).idiv = s.idiv := rfl
@[simp] theorem State.push_script (w : Word) : (s.push w).script = s.script := rfl
@[simp] theorem State.push_getV (w : Word) (r : Reg) : (s.push w).getV r = s.getV r := rfl
@[simp] theorem State.push_byteAt (w : Word) (q : Nat) : (s.push w).byteAt q = s.byteAt q := rfl

/-! `State.dropTop` -/

@[simp] theorem State.dropTop_v : s.dropTop.v = s.v := rfl
@[simp] theorem State.dropTop_i : s.dropTop.i = s.i := rfl
@[simp] theorem State.dropTop_pc : s.dropTop.pc = s.pc := rfl
@[simp] theorem State.dropTop_dt : s.dropTop.dt = s.dt := rfl
@[simp] theorem State.dropTop_st : s.dropTop.st = s.st := rfl
@[simp] theorem State.dropTop_stack : s.dropTop.stack = s.stack.dropLast := rfl
@[simp] theorem State.dropTop_mem : s.dropTop.mem = s.mem := rfl
@[simp] theorem State.dropTop_disp : s.dropTop.disp = s.disp := rfl
@[simp] theorem State.dropTop_keys : s.dropTop.keys = s.keys := rfl
@[simp] theorem State.dropTop_rnd : s.dropTop.rnd = s.rnd := rfl
@[simp] theorem State.dropTop_draws : s.dropTop.draws = s.draws := rfl
@[simp] theorem State.dropTop_run : s.dropTop.run = s.run := rfl
@[simp] theorem State.dropTop_waitX : s.dropTop.waitX = s.waitX := rfl
@[simp] theorem State.dropTop_fcFrame : s.dropTop.fcFrame = s.fcFrame := rfl
@[simp] theorem State.dropTop_fcPending : s.dropTop.fcPending = s.fcPending := rfl
@[simp] theorem State.dropTop_faultKind : s.dropTop.faultKind = s.faultKind := rfl
@[simp] theorem State.dropTop_faultPc : s.dropTop.faultPc = s.faultPc := rfl
@[simp] theorem State.dropTop_faultOpcode : s.dropTop.faultOpcode = s.faultOpcode := rfl
@[simp] theorem State.dropTop_faultOp : s.dropTop.faultOp = s.faultOp := rfl
@[simp] theorem State.dropTop_faultAddr : s.dropTop.faultAddr = s.faultAddr := rfl
@[simp] theorem State.dropTop_cfg : s.dropTop.cfg = s.cfg := rfl
@[simp] theorem State.dropTop_tdiv : s.dropTop.tdiv = s.tdiv := rfl
@[simp] theorem State.dropTop_idiv : s.dropTop.idiv = s.idiv := rfl
@[simp] theorem State.dropTop_script : s.dropTop.script = s.script := rfl
@[simp] theorem State.dropTop_getV (r : Reg) : s.dropTop.getV r = s.getV r := rfl
@[simp] theorem State.dropTop_byteAt (q : Nat) : s.dropTop.byteAt q = s.byteAt q := rfl

/-! `State.setDisp` -/

@[simp] theorem State.setDisp_v (f : Frame) : (s.setDisp f).v = s.v := rfl
@[simp] theorem State.setDisp_i (f : Frame) : (s.setDisp f).i = s.i := rfl
@[simp] theorem State.setDisp_pc (f : Frame) : (s.setDisp f).pc = s.pc := rfl
@[simp] theorem State.setDisp_dt (f : Frame) : (s.setDisp f).dt = s.dt := rfl
@[simp] theorem State.setDisp_st (f : Frame) : (s.setDisp f).st = s.st := rfl
@[simp] theorem State.setDisp_stack (f : Frame) : (s.setDisp f).stack = s.stack := rfl
@[simp] theorem State.setDisp_mem (f : Frame) : (s.setDisp f).mem = s.mem := rfl
@[simp] theorem State.setDisp_disp (f : Frame) : (s.setDisp f).disp = f := rfl
@[simp] theorem State.setDisp_keys (f : Frame) : (s.setDisp f).keys = s.keys := rfl
@[simp] theorem State.setDisp_rnd (f : Frame) : (s.setDisp f).rnd = s.rnd := rfl
@[simp] theorem State.setDisp_draws (f : Frame) : (s.setDisp f).draws = s.draws := rfl
@[simp] theorem State.setDisp_run (f : Frame) : (s.setDisp f).run = s.run := rfl
@[simp] theorem State.setDisp_waitX (f : Frame) : (s.setDisp f).waitX = s.waitX := rfl
@[simp] theorem State.setDisp_fcFrame (f : Frame) : (s.setDisp f).fcFrame = s.fcFrame := rfl
@[simp] theorem State.setDisp_fcPending (f : Frame) : (s.setDisp f).fcPending = s.fcPending := rfl
@[simp] theorem State.setDisp_faultKind (f : Frame) : (s.setDisp f).faultKind = s.faultKind := rfl
@[simp] theorem State.setDisp_faultPc (f : Frame) : (s.setDisp f).faultPc = s.faultPc := rfl
@[simp] theorem State.setDisp_faultOpcode (f : Frame) : (s.setDisp f).faultOpcode = s.faultOpcode := rfl
@[simp] theorem State.setDisp_faultOp (f : Frame) : (s.setDisp f).faultOp = s.faultOp := rfl
@[simp] theorem State.setDisp_faultAddr (f : Frame) : (s.setDisp f).faultAddr = s.faultAddr := rfl
@[simp] theorem State.setDisp_cfg (f : Frame) : (s.setDisp f).cfg = s.cfg := rfl
@[simp] theorem State.setDisp_tdiv (f : Frame) : (s.setDisp f).tdiv = s.tdiv := rfl
@[simp] theorem State.setDisp_idiv (f : Frame) : (s.setDisp f).idiv = s.idiv := rfl
@[simp] theorem State.setDisp_script (f : Frame) : (s.setDisp f).script = s.script := rfl
@[simp] theorem State.setDisp_getV (f : Frame) (r : Reg) : (s.setDisp f).getV r = s.getV r := rfl
@[simp] theorem State.setDisp_byteAt (f : Frame) (q : Nat) : (s.setDisp f).byteAt q = s.byteAt q := rfl
@[simp] theorem State.setDisp_sp (f : Frame) : (s.setDisp f).sp = s.sp := rfl

/-! `State.publish` -/

@[simp] theorem State.publish_v : s.publish.v = s.v := rfl
@[simp] theorem State.publish_i : s.publish.i = s.i := rfl
@[simp] theorem State.publish_pc : s.publish.pc = s.pc := rfl
@[simp] theorem State.publish_dt : s.publish.dt = s.dt := rfl
@[simp] theorem State.publish_st : s.publish.st = s.st := rfl
@[simp] theorem State.publish_stack : s.publish.stack = s.stack := rfl
@[simp] theorem State.publish_mem : s.publish.mem = s.mem := rfl
@[simp] theorem State.publish_disp : s.publish.disp = s.disp := rfl
@[simp] theorem State.publish_keys : s.publish.keys = s.keys := rfl
@[simp] theorem State.publish_rnd : s.publish.rnd = s.rnd := rfl
@[simp] theorem State.publish_draws : s.publish.draws = s.draws := rfl
@[simp] theorem State.publish_run : s.publish.run = s.run := rfl
@[simp] theorem State.publish_waitX : s.publish.waitX = s.waitX := rfl
@[simp] theorem State.publish_fcFrame : s.publish.fcFrame = s.disp := rfl
@[simp] theorem State.publish_fcPending : s.publish.fcPending = true := rfl
@[simp] theorem State.publish_faultKind : s.publish.faultKind = s.faultKind := rfl
@[simp] theorem State.publish_faultPc : s.publish.faultPc = s.faultPc := rfl
@[simp] theorem State.publish_faultOpcode : s.publish.faultOpcode = s.faultOpcode := rfl
@[simp] theorem State.publish_faultOp : s.publish.faultOp = s.faultOp := rfl
@[simp] theorem State.publish_faultAddr : s.publish.faultAddr = s.faultAddr := rfl
@[simp] theorem State.publish_cfg : s.publish.cfg = s.cfg := rfl
@[simp] theorem State.publish_tdiv : s.publish.tdiv = s.tdiv := rfl
@[simp] theorem State.publish_idiv : s.publish.idiv = s.idiv := rfl
@[simp] theorem State.publish_script : s.publish.script = s.script := rfl
@[simp] theorem State.publish_getV (r : Reg) : s.publish.getV r = s.getV r := rfl
@[simp] theorem State.publish_byteAt (q : Nat) : s.publish.byteAt q = s.byteAt q := rfl
@[simp] theorem State.publish_sp : s.publish.sp = s.sp := rfl

/-! `State.take` -/

@[simp] theorem State.take_v : s.take.v = s.v := rfl
@[simp] theorem State.take_i : s.take.i = s.i := rfl
@[simp] theorem State.take_pc : s.take.pc = s.pc := rfl
@[simp] theorem State.take_dt : s.take.dt = s.dt := rfl
@[simp] theorem State.take_st : s.take.st = s.st := rfl
@[simp] theorem State.take_stack : s.take.stack = s.stack := rfl
@[simp] theorem State.take_mem : s.take.mem = s.mem := rfl
@[simp] theorem State.take_disp : s.take.disp = s.disp := rfl
@[simp] theorem State.take_keys : s.take.keys = s.keys := rfl
@[simp] theorem State.take_rnd : s.take.rnd = s.rnd := rfl
@[simp] theorem State.take_draws : s.take.draws = s.draws := rfl
@[simp] theorem State.take_run : s.take.run = s.run := rfl
@[simp] theorem State.take_waitX : s.take.waitX = s.waitX := rfl
@[simp] theorem State.take_fcFrame : s.take.fcFrame = s.fcFrame := rfl
@[simp] theorem State.take_fcPending : s.take.fcPending = false := rfl
@[simp] theorem State.take_faultKind : s.take.faultKind = s.faultKind := rfl
@[simp] theorem State.take_faultPc : s.take.faultPc = s.faultPc := rfl
@[simp] theorem State.take_faultOpcode : s.take.faultOpcode = s.faultOpcode := rfl
@[simp] theorem State.take_faultOp : s.take.faultOp = s.faultOp := rfl
@[simp] theorem State.take_faultAddr : s.take.faultAddr = s.faultAddr := rfl
@[simp] theorem State.take_cfg : s.take.cfg = s.cfg := rfl
@[simp] theorem State.take_tdiv : s.take.tdiv = s.tdiv := rfl
@[simp] theorem State.take_idiv : s.take.idiv = s.idiv := rfl
@[simp] theorem State.take_script : s.take.script = s.script := rfl
@[simp] theorem State.take_getV (r : Reg) : s.take.getV r = s.getV r := rfl
@[simp] theorem State.take_byteAt (q : Nat) : s.take.byteAt q = s.byteAt q := rfl
@[simp] theorem State.take_sp : s.take.sp = s.sp := rfl

/-! `State.consumeRnd` -/

@[simp] theorem State.consumeRnd_v : s.consumeRnd.v = s.v := by unfold State.consumeRnd; split <;> rfl
@[simp] theorem State.consumeRnd_i : s.consumeRnd.i = s.i := by unfold State.consumeRnd; split <;> rfl
@[simp] theorem State.consumeRnd_pc : s.consumeRnd.pc = s.pc := by unfold State.consumeRnd; split <;> rfl
@[simp] theorem State.consumeRnd_dt : s.consumeRnd.dt = s.dt := by unfold State.consumeRnd; split <;> rfl
@[simp] theorem State.consumeRnd_st : s.consumeRnd.st = s.st := by unfold State.consumeRnd; split <;> rfl
@[simp] theorem State.consumeRnd_stack : s.consumeRnd.stack = s.stack := by unfold State.consumeRnd; split <;> rfl
@[simp] theorem State.consumeRnd_mem : s.consumeRnd.mem = s.mem := by unfold State.consumeRnd; split <;> rfl
@[simp] theorem State.consumeRnd_disp : s.consumeRnd.disp = s.disp := by unfold State.consumeRnd; split <;> rfl
@[simp] theorem State.consumeRnd_keys : s.consumeRnd.keys = s.keys := by unfold State.consumeRnd; split <;> rfl
@[simp] theorem State.consumeRnd_run : s.consumeRnd.run = s.run := by unfold State.consumeRnd; split <;> rfl
@[simp] theorem State.consumeRnd_waitX : s.consumeRnd.waitX = s.waitX := by unfold State.consumeRnd; split <;> rfl
@[simp] theorem State.consumeRnd_fcFrame : s.consumeRnd.fcFrame = s.fcFrame := by unfold State.consumeRnd; split <;> rfl
@[simp] theorem State.consumeRnd_fcPending : s.consumeRnd.fcPending = s.fcPending := by unfold State.consumeRnd; split <;> rfl
@[simp] theorem State.consumeRnd_faultKind : s.consumeRnd.faultKind = s.faultKind := by unfold State.consumeRnd; split <;> rfl
@[simp] theorem State.consumeRnd_faultPc : s.consumeRnd.faultPc = s.faultPc := by unfold State.consumeRnd; split <;> rfl
@[simp] theorem State.consumeRnd_faultOpcode : s.consumeRnd.faultOpcode = s.faultOpcode := by unfold State.consumeRnd; split <;> rfl
@[simp] theorem State.consumeRnd_faultOp : s.consumeRnd.faultOp = s.faultOp := by unfold State.consumeRnd; split <;> rfl
@[simp] theorem State.consumeRnd_faultAddr : s.consumeRnd.faultAddr = s.faultAddr := by unfold State.consumeRnd; split <;> rfl
@[simp] theorem State.consumeRnd_cfg : s.consumeRnd.cfg = s.cfg := by unfold State.consumeRnd; split <;> rfl
@[simp] theorem State.consumeRnd_tdiv : s.consumeRnd.tdiv = s.tdiv := by unfold State.consumeRnd; split <;> rfl
@[simp] theorem State.consumeRnd_idiv : s.consumeRnd.idiv = s.idiv := by unfold State.consumeRnd; split <;> rfl
@[simp] theorem State.consumeRnd_script : s.consumeRnd.script = s.script := by unfold State.consumeRnd; split <;> rfl
@[simp] theorem State.consumeRnd_getV (r : Reg) : s.consumeRnd.getV r = s.getV r := by unfold State.consumeRnd; split <;> rfl
@[simp] theorem State.consumeRnd_byteAt (q : Nat) : s.consumeRnd.byteAt q = s.byteAt q := by unfold State.consumeRnd; split <;> rfl
@[simp] theorem State.consumeRnd_sp : s.consumeRnd.sp = s.sp := by unfold State.consumeRnd; split <;> rfl

/-! `raise` -/

@[simp] theorem raise_v (k : FaultKind) (w : Word) (o : FaultOp) (a : Nat) : (raise k w o a s).v = s.v := rfl
@[simp] theorem raise_i (k : FaultKind) (w : Word) (o : FaultOp) (a : Nat) : (raise k w o a s).i = s.i := rfl
@[simp] theorem raise_pc (k : FaultKind) (w : Word) (o : FaultOp) (a : Nat) : (raise k w o a s).pc = s.pc := rfl
@[simp] theorem raise_dt (k : FaultKind) (w : Word) (o : FaultOp) (a : Nat) : (raise k w o a s).dt = s.dt := rfl
@[simp] theorem raise_st (k : FaultKind) (w : Word) (o : FaultOp) (a : Nat) : (raise k w o a s).st = s.st := rfl
@[simp] theorem raise_stack (k : FaultKind) (w : Word) (o : FaultOp) (a : Nat) : (raise k w o a s).stack = s.stack := rfl
@[simp] theorem raise_mem (k : FaultKind) (w : Word) (o : FaultOp) (a : Nat) : (raise k w o a s).mem = s.mem := rfl
@[simp] theorem raise_disp (k : FaultKind) (w : Word) (o : FaultOp) (a : Nat) : (raise k w o a s).disp = s.disp := rfl
@[simp] theorem raise_keys (k : FaultKind) (w : Word) (o : FaultOp) (a : Nat) : (raise k w o a s).keys = s.keys := rfl
@[simp] theorem raise_rnd (k : FaultKind) (w : Word) (o : FaultOp) (a : Nat) : (raise k w o a s).rnd = s.rnd := rfl
@[simp] theorem raise_draws (k : FaultKind) (w : Word) (o : FaultOp) (a : Nat) : (raise k w o a s).draws = s.draws := rfl
@[simp] theorem raise_run (k : FaultKind) (w : Word) (o : FaultOp) (a : Nat) : (raise k w o a s).run = .halted := rfl
@[simp] theorem raise_waitX (k : FaultKind) (w : Word) (o : FaultOp) (a : Nat) : (raise k w o a s).waitX = s.waitX := rfl
@[simp] theorem raise_fcFrame (k : FaultKind) (w : Word) (o : FaultOp) (a : Nat) : (raise k w o a s).fcFrame = s.fcFrame := rfl
@[simp] theorem raise_fcPending (k : FaultKind) (w : Word) (o : FaultOp) (a : Nat) : (raise k w o a s).fcPending = s.fcPending := rfl
@[simp] theorem raise_faultKind (k : FaultKind) (w : Word) (o : FaultOp) (a : Nat) : (raise k w o a s).faultKind = k := rfl
@[simp] theorem raise_faultPc (k : FaultKind) (w : Word) (o : FaultOp) (a : Nat) : (raise k w o a s).faultPc = s.pc := rfl
@[simp] theorem raise_faultOpcode (k : FaultKind) (w : Word) (o : FaultOp) (a : Nat) : (raise k w o a s).faultOpcode = w := rfl
@[simp] theorem raise_faultOp (k : FaultKind) (w : Word) (o : FaultOp) (a : Nat) : (raise k w o a s).faultOp = o := rfl
@[simp] theorem raise_faultAddr (k : FaultKind) (w : Word) (o : FaultOp) (a : Nat) : (raise k w o a s).faultAddr = BitVec.ofNat 17 a := rfl
@[simp] theorem raise_cfg (k : FaultKind) (w : Word) (o : FaultOp) (a : Nat) : (raise k w o a s).cfg = s.cfg := rfl
@[simp] theorem raise_tdiv (k : FaultKind) (w : Word) (o : FaultOp) (a : Nat) : (raise k w o a s).tdiv = s.tdiv := rfl
@[simp] theorem raise_idiv (k : FaultKind) (w : Word) (o : FaultOp) (a : Nat) : (raise k w o a s).idiv = s.idiv := rfl
@[simp] theorem raise_script (k : FaultKind) (w : Word) (o : FaultOp) (a : Nat) : (raise k w o a s).script = s.script := rfl
@[simp] theorem raise_getV (k : FaultKind) (w : Word) (o : FaultOp) (a : Nat) (r : Reg) : (raise k w o a s).getV r = s.getV r := rfl
@[simp] theorem raise_byteAt (k : FaultKind) (w : Word) (o : FaultOp) (a : Nat) (q : Nat) : (raise k w o a s).byteAt q = s.byteAt q := rfl
@[simp] theorem raise_sp (k : FaultKind) (w : Word) (o : FaultOp) (a : Nat) : (raise k w o a s).sp = s.sp := rfl

/-! `setKeys` -/

@[simp] theorem setKeys_v (k : Word) : (setKeys k s).v = s.v := rfl
@[simp] theorem setKeys_i (k : Word) : (setKeys k s).i = s.i := rfl
@[simp] theorem setKeys_pc (k : Word) : (setKeys k s).pc = s.pc := rfl
@[simp] theorem setKeys_dt (k : Word) : (setKeys k s).dt = s.dt := rfl
@[simp] theorem setKeys_st (k : Word) : (setKeys k s).st = s.st := rfl
@[simp] theorem setKeys_stack (k : Word) : (setKeys k s).stack = s.stack := rfl
@[simp] theorem setKeys_mem (k : Word) : (setKeys k s).mem = s.mem := rfl
@[simp] theorem setKeys_disp (k : Word) : (setKeys k s).disp = s.disp := rfl
@[simp] theorem setKeys_keys (k : Word) : (setKeys k s).keys = k := rfl
@[simp] theorem setKeys_rnd (k : Word) : (setKeys k s).rnd = s.rnd := rfl
@[simp] theorem setKeys_draws (k : Word) : (setKeys k s).draws = s.draws := rfl
@[simp] theorem setKeys_run (k : Word) : (setKeys k s).run = s.run := rfl
@[simp] theorem setKeys_waitX (k : Word) : (setKeys k s).waitX = s.waitX := rfl
@[simp] theorem setKeys_fcFrame (k : Word) : (setKeys k s).fcFrame = s.fcFrame := rfl
@[simp] theorem setKeys_fcPending (k : Word) : (setKeys k s).fcPending = s.fcPending := rfl
@[simp] theorem setKeys_faultKind (k : Word) : (setKeys k s).faultKind = s.faultKind := rfl
@[simp] theorem setKeys_faultPc (k : Word) : (setKeys k s).faultPc = s.faultPc := rfl
@[simp] theorem setKeys_faultOpcode (k : Word) : (setKeys k s).faultOpcode = s.faultOpcode := rfl
@[simp] theorem setKeys_faultOp (k : Word) : (setKeys k s).faultOp = s.faultOp := rfl
@[simp] theorem setKeys_faultAddr (k : Word) : (setKeys k s).faultAddr = s.faultAddr := rfl
@[simp] theorem setKeys_cfg (k : Word) : (setKeys k s).cfg = s.cfg := rfl
@[simp] theorem setKeys_tdiv (k : Word) : (setKeys k s).tdiv = s.tdiv := rfl
@[simp] theorem setKeys_idiv (k : Word) : (setKeys k s).idiv = s.idiv := rfl
@[simp] theorem setKeys_script (k : Word) : (setKeys k s).script = s.script := rfl
@[simp] theorem setKeys_getV (k : Word) (r : Reg) : (setKeys k s).getV r = s.getV r := rfl
@[simp] theorem setKeys_byteAt (k : Word) (q : Nat) : (setKeys k s).byteAt q = s.byteAt q := rfl
@[simp] theorem setKeys_sp (k : Word) : (setKeys k s).sp = s.sp := rfl

/-! `incIndex` -/

@[simp] theorem incIndex_v (n : Nat) : (incIndex s n).v = s.v := by unfold incIndex; split <;> rfl
@[simp] theorem incIndex_i (n : Nat) : (incIndex s n).i = if s.cfg.qIncI then BitVec.ofNat 16 (s.i.toNat + n) else s.i := by unfold incIndex; split <;> simp_all
@[simp] theorem incIndex_pc (n : Nat) : (incIndex s n).pc = s.pc := by unfold incIndex; split <;> rfl
@[simp] theorem incIndex_dt (n : Nat) : (incIndex s n).dt = s.dt := by unfold incIndex; split <;> rfl
@[simp] theorem incIndex_st (n : Nat) : (incIndex s n).st = s.st := by unfold incIndex; split <;> rfl
@[simp] theorem incIndex_stack (n : Nat) : (incIndex s n).stack = s.stack := by unfold incIndex; split <;> rfl
@[simp] theorem incIndex_mem (n : Nat) : (incIndex s n).mem = s.mem := by unfold incIndex; split <;> rfl
@[simp] theorem incIndex_disp (n : Nat) : (incIndex s n).disp = s.disp := by unfold incIndex; split <;> rfl
@[simp] theorem incIndex_keys (n : Nat) : (incIndex s n).keys = s.keys := by unfold incIndex; split <;> rfl
@[simp] theorem incIndex_rnd (n : Nat) : (incIndex s n).rnd = s.rnd := by unfold incIndex; split <;> rfl
@[simp] theorem incIndex_draws (n : Nat) : (incIndex s n).draws = s.draws := by unfold incIndex; split <;> rfl
@[simp] theorem incIndex_run (n : Nat) : (incIndex s n).run = s.run := by unfold incIndex; split <;> rfl
@[simp] theorem incIndex_waitX (n : Nat) : (incIndex s n).waitX = s.waitX := by unfold incIndex; split <;> rfl
@[simp] theorem incIndex_fcFrame (n : Nat) : (incIndex s n).fcFrame = s.fcFrame := by unfold incIndex; split <;> rfl
@[simp] theorem incIndex_fcPending (n : Nat) : (incIndex s n).fcPending = s.fcPending := by unfold incIndex; split <;> rfl
@[simp] theorem incIndex_faultKind (n : Nat) : (incIndex s n).faultKind = s.faultKind := by unfold incIndex; split <;> rfl
@[simp] theorem incIndex_faultPc (n : Nat) : (incIndex s n).faultPc = s.faultPc := by unfold incIndex; split <;> rfl
@[simp] theorem incIndex_faultOpcode (n : Nat) : (incIndex s n).faultOpcode = s.faultOpcode := by unfold incIndex; split <;> rfl
@[simp] theorem incIndex_faultOp (n : Nat) : (incIndex s n).faultOp = s.faultOp := by unfold incIndex; split <;> rfl
@[simp] theorem incIndex_faultAddr (n : Nat) : (incIndex s n).faultAddr = s.faultAddr := by unfold incIndex; split <;> rfl
@[simp] theorem incIndex_cfg (n : Nat) : (incIndex s n).cfg = s.cfg := by unfold incIndex; split <;> rfl
@[simp] theorem incIndex_tdiv (n : Nat) : (incIndex s n).tdiv = s.tdiv := by unfold incIndex; split <;> rfl
@[simp] theorem incIndex_idiv (n : Nat) : (incIndex s n).idiv = s.idiv := by unfold incIndex; split <;> rfl
@[simp] theorem incIndex_script (n : Nat) : (incIndex s n).script = s.script := by unfold incIndex; split <;> rfl
@[simp] theorem incIndex_getV (n : Nat) (r : Reg) : (incIndex s n).getV r = s.getV r := by unfold incIndex; split <;> rfl
@[simp] theorem incIndex_byteAt (n : Nat) (q : Nat) : (incIndex s n).byteAt q = s.byteAt q := by unfold incIndex; split <;> rfl
@[simp] theorem incIndex_sp (n : Nat) : (incIndex s n).sp = s.sp := by unfold incIndex; split <;> rfl

/-! `tick` -/

@[simp] theorem tick_v : (tick s).v = s.v := by unfold tick; split <;> rfl
@[simp] theorem tick_i : (tick s).i = s.i := by unfold tick; split <;> rfl
@[simp] theorem tick_pc : (tick s).pc = s.pc := by unfold tick; split <;> rfl
@[simp] theorem tick_dt : (tick s).dt = if s.run = .halted then s.dt else countDown s.dt := by unfold tick; split <;> rfl
@[simp] theorem tick_st : (tick s).st = if s.run = .halted then s.st else countDown s.st := by unfold tick; split <;> rfl
@[simp] theorem tick_stack : (tick s).stack = s.stack := by unfold tick; split <;> rfl
@[simp] theorem tick_mem : (tick s).mem = s.mem := by unfold tick; split <;> rfl
@[simp] theorem tick_disp : (tick s).disp = s.disp := by unfold tick; split <;> rfl
@[simp] theorem tick_keys : (tick s).keys = s.keys := by unfold tick; split <;> rfl
@[simp] theorem tick_rnd : (tick s).rnd = s.rnd := by unfold tick; split <;> rfl
@[simp] theorem tick_draws : (tick s).draws = s.draws := by unfold tick; split <;> rfl
@[simp] theorem tick_run : (tick s).run = s.run := by unfold tick; split <;> rfl
@[simp] theorem tick_waitX : (tick s).waitX = s.waitX := by unfold tick; split <;> rfl
@[simp] theorem tick_fcFrame : (tick s).fcFrame = s.fcFrame := by unfold tick; split <;> rfl
@[simp] theorem tick_fcPending : (tick s).fcPending = s.fcPending := by unfold tick; split <;> rfl
@[simp] theorem tick_faultKind : (tick s).faultKind = s.faultKind := by unfold tick; split <;> rfl
@[simp] theorem tick_faultPc : (tick s).faultPc = s.faultPc := by unfold tick; split <;> rfl
@[simp] theorem tick_faultOpcode : (tick s).faultOpcode = s.faultOpcode := by unfold tick; split <;> rfl
@[simp] theorem tick_faultOp : (tick s).faultOp = s.faultOp := by unfold tick; split <;> rfl
@[simp] theorem tick_faultAddr : (tick s).faultAddr = s.faultAddr := by unfold tick; split <;> rfl
@[simp] theorem tick_cfg : (tick s).cfg = s.cfg := by unfold tick; split <;> rfl
@[simp] theorem tick_tdiv : (tick s).tdiv = s.tdiv := by unfold tick; split <;> rfl
@[simp] theorem tick_idiv : (tick s).idiv = s.idiv := by unfold tick; split <;> rfl
@[simp] theorem tick_script : (tick s).script = s.script := by unfold tick; split <;> rfl
@[simp] theorem tick_getV (r : Reg) : (tick s).getV r = s.getV r := by unfold tick; split <;> rfl
@[simp] theorem tick_byteAt (q : Nat) : (tick s).byteAt q = s.byteAt q := by unfold tick; split <;> rfl
@[simp] theorem tick_sp : (tick s).sp = s.sp := by unfold tick; split <;> rfl

end Sys2Proof.Machine
end

