-- ==== Sys2Proof/Laws/Ops.lean ====
section
/-! SUPPORT. One lemma per shared operation that says what it can do; proofs cite it instead of unfolding the operation. -/

namespace Sys2Proof.Machine

variable {s t : State}

/-! ### Registers and flags -/

/-- A read after a write of a register. -/
theorem State.getV_setV (s : State) (x r : Reg) (b : Byte) : (s.setV x b).getV r = if r = x then b else s.getV r := by
  unfold State.getV State.setV
  rw [Vector.getElem_set]
  simp [BitVec.toNat_inj, eq_comm]

@[simp] theorem State.getV_setV_self (s : State) (x : Reg) (b : Byte) : (s.setV x b).getV x = b := by
  simp [State.getV_setV]

theorem State.getV_setV_of_ne (s : State) {x r : Reg} (b : Byte) (h : r ≠ x) : (s.setV x b).getV r = s.getV r := by
  simp [State.getV_setV, h]

/-- Register files that read alike are equal. -/
theorem State.v_ext (h : ∀ r, s.getV r = t.getV r) : s.v = t.v := by
  apply Vector.ext
  intro k hk
  have := h (BitVec.ofNat 4 k)
  have hm : k % 16 = k := Nat.mod_eq_of_lt hk
  simpa only [State.getV, BitVec.toNat_ofNat, Nat.reducePow, hm] using this

/-- R151: the flag is what `VF` holds afterwards, the result is what `V[x]` holds unless `x = 0xF`. -/
theorem writeWithFlag_getV (s : State) (x r : Reg) (b : Byte) (c : Bool) :
    (writeWithFlag s x b c).getV r = if r = vf then flagByte c else if r = x then b else s.getV r := by
  simp [writeWithFlag, State.getV_setV]

/-- A flag write changes the register file and nothing else. -/
theorem writeWithFlag_rest (s : State) (x : Reg) (b : Byte) (c : Bool) :
    writeWithFlag s x b c = { s with v := (writeWithFlag s x b c).v } := rfl

/-! ### Memory -/

/-- A read after a write of a byte. -/
theorem State.byteAt_setByte (s : State) {a : Nat} (q : Nat) (b : Byte) (h : a < 4096) :
    (s.setByte a b).byteAt q = if q = a then b else s.byteAt q := by
  unfold State.byteAt State.setByte
  split
  · next hq => subst hq; exact Memory.read_write_same h
  · next hq => exact Memory.read_write_other hq

theorem State.byteAt_setByte_of_ne (s : State) {a q : Nat} (b : Byte) (h : q ≠ a) :
    (s.setByte a b).byteAt q = s.byteAt q := Memory.read_write_other h

/-- A byte store keeps the canonical form. -/
theorem State.setByte_wf (a : Nat) (b : Byte) (h : s.mem.wf s.cfg.fontBase.toNat) :
    (s.setByte a b).mem.wf (s.setByte a b).cfg.fontBase.toNat := Memory.wf_write h

/-- `storeRegs` writes memory and nothing else. -/
theorem storeRegs_rest (s : State) (n : Nat) : storeRegs s n = { s with mem := (storeRegs s n).mem } := by
  unfold storeRegs
  induction n with
  | zero => rfl
  | succ n ih =>
    rw [List.range_succ, List.foldl_append]
    simp only [List.foldl_cons, List.foldl_nil]
    generalize List.foldl _ s (List.range n) = t at ih
    rw [ih]
    rfl

/-- One more register stored. -/
theorem storeRegs_succ (s : State) (n : Nat) :
    storeRegs s (n + 1) = (storeRegs s n).setByte (s.i.toNat + n) (s.getV (BitVec.ofNat 4 n)) := by
  have h := storeRegs_rest s n
  have hi : (storeRegs s n).i = s.i := by rw [h]
  have hv : (storeRegs s n).getV (BitVec.ofNat 4 n) = s.getV (BitVec.ofNat 4 n) := by rw [h]; rfl
  rw [← hi, ← hv]
  simp [storeRegs, List.range_succ, List.foldl_append]

/-- The bytes a store of `n` registers leaves: register `q - I` inside `I .. I + n - 1`, what was there before elsewhere. -/
theorem storeRegs_byteAt (s : State) (n q : Nat) (h : s.i.toNat + n ≤ 4096) :
    (storeRegs s n).byteAt q =
      if s.i.toNat ≤ q ∧ q < s.i.toNat + n then s.getV (BitVec.ofNat 4 (q - s.i.toNat)) else s.byteAt q := by
  induction n with
  | zero => rw [if_neg (by omega)]; rfl
  | succ n ih =>
    rw [storeRegs_succ, State.byteAt_setByte _ _ _ (by omega), ih (by omega)]
    by_cases hq : q = s.i.toNat + n
    · subst hq; simp
    · rw [if_neg hq]
      by_cases h1 : s.i.toNat ≤ q ∧ q < s.i.toNat + n
      · rw [if_pos h1, if_pos (by omega)]
      · rw [if_neg h1, if_neg (by omega)]

/-- A store of registers leaves the bytes outside its range alone, whatever the range. -/
theorem storeRegs_byteAt_of_ne (s : State) (n q : Nat) (h : q < s.i.toNat ∨ s.i.toNat + n ≤ q) :
    (storeRegs s n).byteAt q = s.byteAt q := by
  induction n with
  | zero => rfl
  | succ n ih => rw [storeRegs_succ, State.byteAt_setByte_of_ne _ _ (by omega), ih (by omega)]

/-- A store of registers keeps the canonical form. -/
theorem storeRegs_wf (n : Nat) (h : s.mem.wf s.cfg.fontBase.toNat) :
    (storeRegs s n).mem.wf (storeRegs s n).cfg.fontBase.toNat := by
  induction n with
  | zero => exact h
  | succ n ih => rw [storeRegs_succ]; exact State.setByte_wf _ _ ih

/-- `loadRegs` writes the register file and nothing else. -/
theorem loadRegs_rest (s : State) (n : Nat) : loadRegs s n = { s with v := (loadRegs s n).v } := by
  unfold loadRegs
  induction n with
  | zero => rfl
  | succ n ih =>
    rw [List.range_succ, List.foldl_append]
    simp only [List.foldl_cons, List.foldl_nil]
    generalize List.foldl _ s (List.range n) = t at ih
    rw [ih]
    rfl

/-- One more register loaded. -/
theorem loadRegs_succ (s : State) (n : Nat) :
    loadRegs s (n + 1) = (loadRegs s n).setV (BitVec.ofNat 4 n) (s.byteAt (s.i.toNat + n)) := by
  have h := loadRegs_rest s n
  have hb : (loadRegs s n).byteAt ((loadRegs s n).i.toNat + n) = s.byteAt (s.i.toNat + n) := by rw [h]; rfl
  rw [← hb]
  simp [loadRegs, List.range_succ, List.foldl_append]

/-- The registers a load of `n` leaves: `V[r]` is the byte at `I + r` for `r < n`, and what it was before otherwise. -/
theorem loadRegs_getV (s : State) (n : Nat) (r : Reg) (h : n ≤ 16) :
    (loadRegs s n).getV r = if r.toNat < n then s.byteAt (s.i.toNat + r.toNat) else s.getV r := by
  induction n with
  | zero => rfl
  | succ n ih =>
    rw [loadRegs_succ, State.getV_setV, ih (by omega)]
    have hn : (BitVec.ofNat 4 n).toNat = n := by simp; omega
    by_cases hr : r = BitVec.ofNat 4 n
    · subst hr; rw [if_pos rfl, if_pos (by omega), hn]
    · have : r.toNat ≠ n := fun e => hr (BitVec.eq_of_toNat_eq (by omega))
      rw [if_neg hr]
      by_cases h1 : r.toNat < n
      · rw [if_pos h1, if_pos (by omega)]
      · rw [if_neg h1, if_neg (by omega)]

/-- The three writes of `FX33` change memory and nothing else. -/
theorem storeDigits_rest (s : State) (b : Byte) : storeDigits s b = { s with mem := (storeDigits s b).mem } := rfl

/-- The three bytes `FX33` leaves (R211), inside memory. -/
theorem storeDigits_byteAt (s : State) (b : Byte) (q : Nat) (h : s.i.toNat + 2 < 4096) :
    (storeDigits s b).byteAt q =
      if q = s.i.toNat + 2 then ones b else if q = s.i.toNat + 1 then tens b
      else if q = s.i.toNat then hundreds b else s.byteAt q := by
  unfold storeDigits
  rw [State.byteAt_setByte _ _ _ (by omega), State.byteAt_setByte _ _ _ (by omega), State.byteAt_setByte _ _ _ (by omega)]

/-- `FX33` leaves the bytes outside `I .. I + 2` alone, whatever `I`. -/
theorem storeDigits_byteAt_of_ne (s : State) (b : Byte) (q : Nat) (h : q < s.i.toNat ∨ s.i.toNat + 3 ≤ q) :
    (storeDigits s b).byteAt q = s.byteAt q := by
  unfold storeDigits
  rw [State.byteAt_setByte_of_ne _ _ (by omega), State.byteAt_setByte_of_ne _ _ (by omega),
    State.byteAt_setByte_of_ne _ _ (by omega)]

/-- The three writes of `FX33` keep the canonical form. -/
theorem storeDigits_wf (b : Byte) (h : s.mem.wf s.cfg.fontBase.toNat) :
    (storeDigits s b).mem.wf (storeDigits s b).cfg.fontBase.toNat :=
  State.setByte_wf _ _ (State.setByte_wf _ _ (State.setByte_wf _ _ h))

/-! ### The range check and faults -/

theorem outOfRange_iff (s : State) (n : Nat) : outOfRange s n = true ↔ 0 < n ∧ 4095 < s.i.toNat + n - 1 := by
  simp [outOfRange]

/-- What a range-checked instruction answers: the fault, or its effect. -/
theorem checked_cases {w : Word} {op : FaultOp} {n : Nat} {e : State} (h : checked s w op n e = .next t) :
    (outOfRange s n = true ∧ t = raise .memBounds w op (faultAddress s) s) ∨ (outOfRange s n = false ∧ t = e) := by
  unfold checked at h
  split at h
  · next hr => exact .inl ⟨hr, by cases h; rfl⟩
  · next hr => exact .inr ⟨by simpa using hr, by cases h; rfl⟩

/-- A fetch that succeeds lies inside memory and reads big-endian. -/
theorem fetch_ok_iff (w : Word) : fetch s = .ok w ↔
    s.pc.toNat ≤ 4094 ∧ w = wordOfBytes (s.byteAt s.pc.toNat) (s.byteAt (s.pc.toNat + 1)) := by
  unfold fetch
  split
  · constructor
    · intro h; cases h
    · rintro ⟨h, -⟩; omega
  · split
    · constructor
      · intro h; cases h
      · rintro ⟨h, -⟩; omega
    · constructor
      · intro h; cases h; exact ⟨by omega, rfl⟩
      · rintro ⟨-, rfl⟩; rfl

/-- The fetch of an instruction's own bytes is its word. -/
theorem wordOfBytes_bytesOfWord (w : Word) : wordOfBytes (bytesOfWord w).1 (bytesOfWord w).2 = w := by
  apply BitVec.eq_of_getLsbD_eq
  intro i hi
  simp only [wordOfBytes, bytesOfWord, BitVec.getLsbD_append, BitVec.getLsbD_extractLsb']
  by_cases h : i < 8
  · simp [h]
  · simp only [h, if_false, show i - 8 < 8 by omega, decide_true, Bool.true_and]
    congr 1; omega

/-! ### Agents -/

/-- What `Wake` does: it writes the lowest pressed key and resumes, or it is not enabled and changes nothing. -/
theorem wake_cases (s : State) :
    (∃ k, s.run = .waitKey ∧ lowestKey s.keys = some k ∧
      wake s = { s.setV s.waitX (BitVec.ofNat 8 k) with run := .running }) ∨
    ((s.run ≠ .waitKey ∨ lowestKey s.keys = none) ∧ wake s = s) := by
  unfold wake
  split
  · next k hr hk => exact .inl ⟨k, hr, hk, rfl⟩
  · next h =>
    refine .inr ⟨?_, rfl⟩
    by_cases hr : s.run = .waitKey
    · refine .inr ?_
      cases hk : lowestKey s.keys with
      | none => rfl
      | some k => exact absurd hk (h k hr)
    · exact .inl hr

/-- What `lowestKey` answers: a pressed key below which none is pressed, or none when no key is down. -/
theorem lowestKey_eq_some {k : Word} {j : Nat} :
    lowestKey k = some j ↔ j < 16 ∧ k.getLsbD j = true ∧ ∀ l < j, k.getLsbD l = false := by
  unfold lowestKey
  rw [List.find?_range_eq_some]
  simp only [List.mem_range, Bool.not_eq_true']
  tauto

theorem lowestKey_eq_none {k : Word} : lowestKey k = none ↔ k = 0#16 := by
  unfold lowestKey
  rw [List.find?_eq_none]
  constructor
  · intro h
    apply BitVec.eq_of_getLsbD_eq
    intro i hi
    have := h i (List.mem_range.2 hi)
    simpa using this
  · rintro rfl; simp

/-- What `Reset` does: the reset values with the image, or, after a failed load check, without it and with the load fault. -/
theorem resetTo_cases (c : Config) (img : List Byte) (s : State) :
    ((c.legal = true ∧ c.imageFits img = true) ∧ resetTo c img s = initial c img s) ∨
    ((c.legal = false ∨ c.imageFits img = false) ∧
      resetTo c img s = raise .loadFault 0x0000#16 .none 4096 (initial c [] s)) := by
  unfold resetTo
  cases h1 : c.legal <;> cases h2 : c.imageFits img <;> simp

/-- `State.reset` is what `Reset` makes of any power-on state in the standard configuration with an empty image. -/
theorem reset_eq_resetTo : resetTo Config.standard [] State.reset = State.reset := by decide

/-- What a step can do: the script's next agent's step, or the Engine's step of a machine that is not halted. -/
theorem step_cases (h : step s = .next t) :
    (∃ a rest, s.script = a :: rest ∧ perform a { s with script := rest } = .next t) ∨
    (s.script = [] ∧ s.run ≠ .halted ∧ engineStep s = .next t) := by
  unfold step at h
  split at h
  · next a rest hs => exact .inl ⟨a, rest, hs, h⟩
  · next hs =>
    split at h
    · cases h
    · next hr => exact .inr ⟨hs, hr, h⟩

/-- What the Engine's step can do, by run state. -/
theorem engineStep_cases (h : engineStep s = .next t) :
    (s.run = .running ∧ execStep s = .next t) ∨ (s.run = .waitKey ∧ t = wake s) ∨ (s.run = .halted ∧ t = s) := by
  unfold engineStep at h
  split at h
  · next hr => exact .inl ⟨hr, h⟩
  · next hr => exact .inr (.inl ⟨hr, by cases h; rfl⟩)
  · next hr => exact .inr (.inr ⟨hr, by cases h; rfl⟩)

/-- What an `Exec` step can do: a fetch fault, a decode fault, or the effect of the decoded instruction. -/
theorem execStep_cases (h : execStep s = .next t) :
    (∃ a, fetch s = .error a ∧ t = raise .memBounds 0x0000#16 .fetch a s) ∨
    (∃ op e, fetch s = .ok op ∧ decode op = .error e ∧ t = raise .decode op .none s.pc.toNat s) ∨
    (∃ op i, fetch s = .ok op ∧ decode op = .ok i ∧ exec i s = .next t) := by
  unfold execStep at h
  split at h
  · next a hf => exact .inl ⟨a, hf, by cases h; rfl⟩
  · next op hf =>
    split at h
    · next e hd => exact .inr (.inl ⟨op, e, hf, hd, by cases h; rfl⟩)
    · next i hd => exact .inr (.inr ⟨op, i, hf, hd, h⟩)

/-- What a clock edge can do. -/
theorem clockEdge_cases (h : clockEdge s = .next t) :
    (s.run = .halted ∧ t = s) ∨ (s.run ≠ .halted ∧ ∃ u, edgeExec (edgeTick s) = .next u ∧ t = wake u) := by
  unfold clockEdge at h
  split at h
  · next hr => exact .inl ⟨hr, by cases h; rfl⟩
  · next hr =>
    refine .inr ⟨hr, ?_⟩
    unfold andThen at h
    split at h
    · next u hu => exact ⟨u, hu, by cases h; rfl⟩
    · cases h
    · cases h

end Sys2Proof.Machine
end

