-- ==== Sys2Proof/Laws/Display.lean ====
section
/-! SUPPORT. The display: what toggling a pixel does to every pixel, and what a blit of distinct on-grid positions leaves. -/

namespace Sys2Proof.Machine

@[simp] theorem pixel_blank (x y : Nat) : pixel blankFrame x y = false := by
  unfold pixel blankFrame
  by_cases h : y < 32 <;> simp [h]

/-- Pictures whose pixels agree are equal. -/
theorem frame_ext {f g : Frame} (h : ∀ x < 64, ∀ y < 32, pixel f x y = pixel g x y) : f = g := by
  apply Vector.ext
  intro y hy
  apply BitVec.eq_of_getLsbD_eq
  intro x hx
  simpa [pixel, hy] using h x hx y hy

/-- Toggling an on-grid pixel flips it and no other. -/
theorem pixel_togglePixel (f : Frame) {a b : Nat} (ha : a < 64) (hb : b < 32) (x y : Nat) :
    pixel (togglePixel f a b) x y = if x = a ∧ y = b then !pixel f x y else pixel f x y := by
  unfold pixel togglePixel
  by_cases hy : y = b
  · subst hy
    by_cases hx : x = a
    · subst hx; simp [hb, ha]
    · have : ¬ a = x := fun e => hx e.symm
      simp [hb, BitVec.getLsbD_twoPow, ha, hx, this]
  · have : ¬ b = y := fun e => hy e.symm
    by_cases h32 : y < 32
    · simp [hy, this, h32]
    · simp [hy, h32]

/-- A blit of distinct on-grid positions flips exactly those pixels and reports whether one of them was set. -/
theorem blit_spec (f : Frame) (ps : List (Nat × Nat)) (hd : ps.Nodup) (hg : ∀ p ∈ ps, p.1 < 64 ∧ p.2 < 32) :
    (∀ x y, pixel (blit f ps).1 x y = if (x, y) ∈ ps then !pixel f x y else pixel f x y) ∧
    ((blit f ps).2 = true ↔ ∃ p ∈ ps, pixel f p.1 p.2 = true) := by
  suffices H : ∀ (hit : Bool), (∀ x y, pixel (ps.foldl drawPixel (f, hit)).1 x y
        = if (x, y) ∈ ps then !pixel f x y else pixel f x y) ∧
      ((ps.foldl drawPixel (f, hit)).2 = true ↔ hit = true ∨ ∃ p ∈ ps, pixel f p.1 p.2 = true) by
    have := H false
    simpa [blit] using this
  induction ps generalizing f with
  | nil => intro hit; simp
  | cons p ps ih =>
    intro hit
    obtain ⟨hp, hd⟩ := List.nodup_cons.1 hd
    have hpg := hg p List.mem_cons_self
    obtain ⟨h1, h2⟩ := ih (togglePixel f p.1 p.2) hd (fun q hq => hg q (List.mem_cons_of_mem _ hq)) (hit || pixel f p.1 p.2)
    have hne : ∀ q ∈ ps, pixel (togglePixel f p.1 p.2) q.1 q.2 = pixel f q.1 q.2 := by
      intro q hq
      rw [pixel_togglePixel f hpg.1 hpg.2, if_neg]
      rintro ⟨e1, e2⟩
      exact hp (by rwa [← Prod.ext e1 e2])
    simp only [List.foldl_cons, drawPixel]
    refine ⟨fun x y => ?_, ?_⟩
    · rw [h1]
      by_cases hm : (x, y) ∈ ps
      · rw [if_pos hm, if_pos (List.mem_cons_of_mem _ hm), hne _ hm]
      · rw [if_neg hm, pixel_togglePixel f hpg.1 hpg.2]
        simp only [List.mem_cons, hm, or_false]
        congr 1
        simp [Prod.ext_iff]
    · rw [h2]
      simp only [Bool.or_eq_true, List.mem_cons, exists_eq_or_imp]
      rw [or_assoc]
      refine or_congr_right (or_congr_right ?_)
      constructor
      · rintro ⟨q, hq, hs⟩; exact ⟨q, hq, by rwa [← hne q hq]⟩
      · rintro ⟨q, hq, hs⟩; exact ⟨q, hq, by rwa [hne q hq]⟩

theorem mem_rowPixels {clip : Bool} {x0 yy : Nat} {b : Byte} {p : Nat × Nat} :
    p ∈ rowPixels clip x0 yy b ↔ ∃ c < 8, b.getLsbD (7 - c) = true ∧ (clip = true → x0 + c ≤ 63 ∧ yy ≤ 31) ∧
      p = ((x0 + c) % 64, yy % 32) := by
  unfold rowPixels placePixel
  simp only [List.mem_filterMap, List.mem_range]
  refine exists_congr fun c => and_congr_right fun _ => ?_
  cases hb : b.getLsbD (7 - c)
  · simp
  · cases clip
    · simp [eq_comm]
    · by_cases h1 : 63 < x0 + c
      · simp [h1]
      · by_cases h2 : 31 < yy
        · simp [h1, h2]
        · simp only [h1, h2, decide_false, Bool.or_false, Bool.and_false, Bool.false_eq_true, if_true, if_false,
            Option.some.injEq, true_and, forall_const]
          exact ⟨fun e => ⟨⟨by omega, by omega⟩, e.symm⟩, fun e => e.2.symm⟩

/-- Which positions a sprite reaches (R182, R183). -/
theorem mem_spritePixels {clip : Bool} {x0 yy : Nat} {rows : List Byte} {p : Nat × Nat} :
    p ∈ spritePixels clip x0 yy rows ↔ ∃ r, ∃ h : r < rows.length, ∃ c < 8, (rows[r]).getLsbD (7 - c) = true ∧
      (clip = true → x0 + c ≤ 63 ∧ yy + r ≤ 31) ∧ p = ((x0 + c) % 64, (yy + r) % 32) := by
  induction rows generalizing yy with
  | nil => simp [spritePixels]
  | cons b rows ih =>
    rw [spritePixels, List.mem_append, mem_rowPixels, ih]
    constructor
    · rintro (⟨c, hc, h⟩ | ⟨r, hr, c, hc, h1, h2, h3⟩)
      · exact ⟨0, by simp, c, hc, by simpa using h⟩
      · refine ⟨r + 1, by simpa using hr, c, hc, by simpa using h1, fun e => ?_, ?_⟩
        · have := h2 e; omega
        · rw [h3]; congr 2; omega
    · rintro ⟨r, hr, c, hc, h1, h2, h3⟩
      cases r with
      | zero => exact .inl ⟨c, hc, by simpa using h1, by simpa using h2, by simpa using h3⟩
      | succ r =>
        refine .inr ⟨r, by simpa using hr, c, hc, by simpa using h1, fun e => ?_, ?_⟩
        · have := h2 e; omega
        · rw [h3]; congr 2; omega

theorem rowPixels_nodup (clip : Bool) (x0 yy : Nat) (b : Byte) : (rowPixels clip x0 yy b).Nodup := by
  have hr : (List.range 8).Pairwise (fun c d => c < d ∧ d < 8) :=
    List.pairwise_lt_range.imp_of_mem fun _ hd h => ⟨h, List.mem_range.1 hd⟩
  refine List.Pairwise.filterMap _ ?_ hr
  rintro c d ⟨hcd, hd⟩ p hp q hq rfl
  unfold placePixel at hp hq
  split at hp <;> [split at hp; cases hp]
  · cases hp
  · split at hq <;> [split at hq; cases hq]
    · cases hq
    · simp only [Option.some.injEq] at hp hq
      have := congrArg Prod.fst (hp.trans hq.symm)
      simp only at this
      omega

/-- A sprite of at most 32 rows reaches no position twice (R182 (c)). -/
theorem spritePixels_nodup (clip : Bool) (x0 : Nat) (rows : List Byte) {yy : Nat} (h : rows.length ≤ 32) :
    (spritePixels clip x0 yy rows).Nodup := by
  induction rows generalizing yy with
  | nil => simp [spritePixels]
  | cons b rows ih =>
    rw [spritePixels, List.nodup_append]
    refine ⟨rowPixels_nodup .., ih (by simp at h; omega), ?_⟩
    rintro p hp q hq rfl
    obtain ⟨c, -, -, -, e1⟩ := mem_rowPixels.1 hp
    obtain ⟨r, hr, d, -, -, -, e2⟩ := mem_spritePixels.1 hq
    have := congrArg Prod.snd (e1.symm.trans e2)
    simp only [List.length_cons] at this h
    omega

/-- Every position a sprite reaches lies on the display. -/
theorem spritePixels_onGrid {clip : Bool} {x0 yy : Nat} {rows : List Byte} {p : Nat × Nat}
    (h : p ∈ spritePixels clip x0 yy rows) : p.1 < 64 ∧ p.2 < 32 := by
  obtain ⟨r, -, c, -, -, -, rfl⟩ := mem_spritePixels.1 h
  exact ⟨Nat.mod_lt _ (by omega), Nat.mod_lt _ (by omega)⟩

@[simp] theorem bytesFrom_length (s : State) (a n : Nat) : (s.bytesFrom a n).length = n := by simp [State.bytesFrom]

end Sys2Proof.Machine
end

