-- ==== Sys2Proof/Laws/Fields.lean ====
section
/-! SUPPORT. The bits and the fields of a word put together from its nibbles: the three shapes of R93 (spec 30_encoding.md) are
`k NNN`, `k X NN` and `k X Y m`. -/

namespace Sys2Proof

variable (k x y m : BitVec 4) (nn : Byte) (nnn : Imm12)

theorem bit_kNNN (j : Nat) : BitVec.getLsbD (w := 16) (k ++ nnn) j = if j < 12 then nnn.getLsbD j else k.getLsbD (j - 12) := by
  rw [show BitVec.getLsbD (w := 16) (k ++ nnn) j = BitVec.getLsbD (w := 4 + 12) (k ++ nnn) j from rfl, BitVec.getLsbD_append]

theorem bit_kXNN (j : Nat) : BitVec.getLsbD (w := 16) (k ++ x ++ nn) j =
    if j < 8 then nn.getLsbD j else if j < 12 then x.getLsbD (j - 8) else k.getLsbD (j - 12) := by
  rw [show BitVec.getLsbD (w := 16) (k ++ x ++ nn) j = BitVec.getLsbD (w := 4 + 4 + 8) (k ++ x ++ nn) j from rfl,
    BitVec.getLsbD_append, BitVec.getLsbD_append]
  by_cases h : j < 8
  · simp [h]
  · by_cases h2 : j < 12
    · simp [h, h2, show j - 8 < 4 by omega]
    · simp [h, h2, show ¬ j - 8 < 4 by omega, show j - 8 - 4 = j - 12 by omega]

theorem bit_kXYm (j : Nat) : BitVec.getLsbD (w := 16) (k ++ x ++ y ++ m) j =
    if j < 4 then m.getLsbD j else if j < 8 then y.getLsbD (j - 4) else if j < 12 then x.getLsbD (j - 8)
    else k.getLsbD (j - 12) := by
  rw [show BitVec.getLsbD (w := 16) (k ++ x ++ y ++ m) j = BitVec.getLsbD (w := 4 + 4 + 4 + 4) (k ++ x ++ y ++ m) j from rfl,
    BitVec.getLsbD_append, BitVec.getLsbD_append, BitVec.getLsbD_append]
  by_cases h : j < 4
  · simp [h]
  · by_cases h2 : j < 8
    · simp [h, h2, show j - 4 < 4 by omega]
    · by_cases h3 : j < 12
      · rw [show j - 4 - 4 = j - 8 by omega]
        simp [h, h2, h3, show ¬ j - 4 < 4 by omega, show j - 8 < 4 by omega]
      · simp [h, h2, h3, show ¬ j - 4 < 4 by omega, show ¬ j - 4 - 4 < 4 by omega, show j - 4 - 4 - 4 = j - 12 by omega]

/-- The bits of a field are bits of the word. -/
theorem bit_field (w : Word) (lo len j : Nat) :
    (w.extractLsb' lo len).getLsbD j = (decide (j < len) && w.getLsbD (lo + j)) := by
  rw [BitVec.getLsbD_extractLsb']

/-- Two values are equal when their bits are; in the form the field lemmas use it. -/
theorem field_ext {n : Nat} {a b : BitVec n} (h : ∀ j < n, a.getLsbD j = b.getLsbD j) : a = b :=
  BitVec.eq_of_getLsbD_eq h

@[simp] theorem fieldN0_kNNN : fieldN0 (k ++ nnn) = k := field_ext fun j hj => by
  simp only [fieldN0, bit_field, bit_kNNN]
  simp [hj]

@[simp] theorem fieldNNN_kNNN : fieldNNN (k ++ nnn) = nnn := field_ext fun j hj => by
  simp only [fieldNNN, bit_field, bit_kNNN]
  simp [hj]

@[simp] theorem fieldN0_kXNN : fieldN0 (k ++ x ++ nn) = k := field_ext fun j hj => by
  simp only [fieldN0, bit_field, bit_kXNN]
  simp [hj, show ¬ 12 + j < 8 by omega]

@[simp] theorem fieldX_kXNN : fieldX (k ++ x ++ nn) = x := field_ext fun j hj => by
  simp only [fieldX, bit_field, bit_kXNN]
  simp [hj, show 8 + j < 12 by omega]

@[simp] theorem fieldNN_kXNN : fieldNN (k ++ x ++ nn) = nn := field_ext fun j hj => by
  simp only [fieldNN, bit_field, bit_kXNN]
  simp [hj]

@[simp] theorem fieldN0_kXYm : fieldN0 (k ++ x ++ y ++ m) = k := field_ext fun j hj => by
  simp only [fieldN0, bit_field, bit_kXYm]
  simp [hj, show ¬ 12 + j < 4 by omega, show ¬ 12 + j < 8 by omega]

@[simp] theorem fieldX_kXYm : fieldX (k ++ x ++ y ++ m) = x := field_ext fun j hj => by
  simp only [fieldX, bit_field, bit_kXYm]
  simp [hj, show ¬ 8 + j < 4 by omega, show 8 + j < 12 by omega]

@[simp] theorem fieldY_kXYm : fieldY (k ++ x ++ y ++ m) = y := field_ext fun j hj => by
  simp only [fieldY, bit_field, bit_kXYm]
  simp [hj, show 4 + j < 8 by omega]

@[simp] theorem fieldN_kXYm : fieldN (k ++ x ++ y ++ m) = m := field_ext fun j hj => by
  simp only [fieldN, bit_field, bit_kXYm]
  simp [hj]

/-- Every word is its major opcode and its 12-bit field. -/
theorem word_eq_kNNN (w : Word) : w = fieldN0 w ++ fieldNNN w := field_ext (n := 16) fun j hj => by
  rw [bit_kNNN]
  simp only [fieldN0, fieldNNN, bit_field]
  by_cases h : j < 12
  · simp [h]
  · simp [h, show j - 12 < 4 by omega, show 12 + (j - 12) = j by omega]

/-- Every word is its major opcode, `X` and `NN`. -/
theorem word_eq_kXNN (w : Word) : w = fieldN0 w ++ fieldX w ++ fieldNN w := field_ext (n := 16) fun j hj => by
  rw [bit_kXNN]
  simp only [fieldN0, fieldX, fieldNN, bit_field]
  by_cases h : j < 8
  · simp [h]
  · by_cases h2 : j < 12
    · simp [h, h2, show j - 8 < 4 by omega, show 8 + (j - 8) = j by omega]
    · simp [h, h2, show j - 12 < 4 by omega, show 12 + (j - 12) = j by omega]

/-- Every word is its four nibbles. -/
theorem word_eq_kXYm (w : Word) : w = fieldN0 w ++ fieldX w ++ fieldY w ++ fieldN w := field_ext (n := 16) fun j hj => by
  rw [bit_kXYm]
  simp only [fieldN0, fieldX, fieldY, fieldN, bit_field]
  by_cases h : j < 4
  · simp [h]
  · by_cases h2 : j < 8
    · simp [h, h2, show j - 4 < 4 by omega, show 4 + (j - 4) = j by omega]
    · by_cases h3 : j < 12
      · simp [h, h2, h3, show j - 8 < 4 by omega, show 8 + (j - 8) = j by omega]
      · simp [h, h2, h3, show j - 12 < 4 by omega, show 12 + (j - 12) = j by omega]

end Sys2Proof
end

