-- ==== Sys2Proof/Laws/PerInstr.lean ====
section
/-! SUPPORT. Statements about every instruction as syntax, one lemma per constructor. Family `TableRow`: the word of an
instruction is a word of that instruction's row of the opcode table (spec 30_encoding.md R100, R110). -/

namespace Sys2Proof.Laws

/-- The fixed bits of an instruction's word are those of its row, and its row stands in the table. -/
def TableRow.Statement (i : Instr) : Prop := (rowOf i).matches (encode i) = true ∧ rowOf i ∈ opcodeTable

/-- A word whose bits under the mask are the pattern's matches the row. -/
theorem TableRow.matches_of_bits {r : OpcodeRow} {w : Word}
    (h : ∀ k < 16, (w.getLsbD k && r.mask.getLsbD k) = r.pat.getLsbD k) : r.matches w = true := by
  unfold OpcodeRow.matches
  rw [beq_iff_eq]
  exact BitVec.eq_of_getLsbD_eq fun k hk => by rw [BitVec.getLsbD_and]; exact h k hk

theorem TableRow.cls : TableRow.Statement .cls := by unfold TableRow.Statement; decide

theorem TableRow.ret : TableRow.Statement .ret := by unfold TableRow.Statement; decide

theorem TableRow.jp (nnn : Imm12) : TableRow.Statement (.jp nnn) :=
  ⟨TableRow.matches_of_bits fun k hk => by interval_cases k <;> simp only [encode, rowOf, bit_kNNN] <;> simp, by simp only [rowOf]; decide⟩

theorem TableRow.call (nnn : Imm12) : TableRow.Statement (.call nnn) :=
  ⟨TableRow.matches_of_bits fun k hk => by interval_cases k <;> simp only [encode, rowOf, bit_kNNN] <;> simp, by simp only [rowOf]; decide⟩

theorem TableRow.seImm (x : Reg) (nn : Byte) : TableRow.Statement (.seImm x nn) :=
  ⟨TableRow.matches_of_bits fun k hk => by interval_cases k <;> simp only [encode, rowOf, bit_kXNN] <;> simp, by simp only [rowOf]; decide⟩

theorem TableRow.sneImm (x : Reg) (nn : Byte) : TableRow.Statement (.sneImm x nn) :=
  ⟨TableRow.matches_of_bits fun k hk => by interval_cases k <;> simp only [encode, rowOf, bit_kXNN] <;> simp, by simp only [rowOf]; decide⟩

theorem TableRow.seReg (x : Reg) (y : Reg) : TableRow.Statement (.seReg x y) :=
  ⟨TableRow.matches_of_bits fun k hk => by interval_cases k <;> simp only [encode, rowOf, bit_kXYm] <;> simp, by simp only [rowOf]; decide⟩

theorem TableRow.ldImm (x : Reg) (nn : Byte) : TableRow.Statement (.ldImm x nn) :=
  ⟨TableRow.matches_of_bits fun k hk => by interval_cases k <;> simp only [encode, rowOf, bit_kXNN] <;> simp, by simp only [rowOf]; decide⟩

theorem TableRow.addImm (x : Reg) (nn : Byte) : TableRow.Statement (.addImm x nn) :=
  ⟨TableRow.matches_of_bits fun k hk => by interval_cases k <;> simp only [encode, rowOf, bit_kXNN] <;> simp, by simp only [rowOf]; decide⟩

theorem TableRow.ldReg (x : Reg) (y : Reg) : TableRow.Statement (.ldReg x y) :=
  ⟨TableRow.matches_of_bits fun k hk => by interval_cases k <;> simp only [encode, rowOf, bit_kXYm] <;> simp, by simp only [rowOf]; decide⟩

theorem TableRow.orReg (x : Reg) (y : Reg) : TableRow.Statement (.orReg x y) :=
  ⟨TableRow.matches_of_bits fun k hk => by interval_cases k <;> simp only [encode, rowOf, bit_kXYm] <;> simp, by simp only [rowOf]; decide⟩

theorem TableRow.andReg (x : Reg) (y : Reg) : TableRow.Statement (.andReg x y) :=
  ⟨TableRow.matches_of_bits fun k hk => by interval_cases k <;> simp only [encode, rowOf, bit_kXYm] <;> simp, by simp only [rowOf]; decide⟩

theorem TableRow.xorReg (x : Reg) (y : Reg) : TableRow.Statement (.xorReg x y) :=
  ⟨TableRow.matches_of_bits fun k hk => by interval_cases k <;> simp only [encode, rowOf, bit_kXYm] <;> simp, by simp only [rowOf]; decide⟩

theorem TableRow.addReg (x : Reg) (y : Reg) : TableRow.Statement (.addReg x y) :=
  ⟨TableRow.matches_of_bits fun k hk => by interval_cases k <;> simp only [encode, rowOf, bit_kXYm] <;> simp, by simp only [rowOf]; decide⟩

theorem TableRow.sub (x : Reg) (y : Reg) : TableRow.Statement (.sub x y) :=
  ⟨TableRow.matches_of_bits fun k hk => by interval_cases k <;> simp only [encode, rowOf, bit_kXYm] <;> simp, by simp only [rowOf]; decide⟩

theorem TableRow.shr (x : Reg) (y : Reg) : TableRow.Statement (.shr x y) :=
  ⟨TableRow.matches_of_bits fun k hk => by interval_cases k <;> simp only [encode, rowOf, bit_kXYm] <;> simp, by simp only [rowOf]; decide⟩

theorem TableRow.subn (x : Reg) (y : Reg) : TableRow.Statement (.subn x y) :=
  ⟨TableRow.matches_of_bits fun k hk => by interval_cases k <;> simp only [encode, rowOf, bit_kXYm] <;> simp, by simp only [rowOf]; decide⟩

theorem TableRow.shl (x : Reg) (y : Reg) : TableRow.Statement (.shl x y) :=
  ⟨TableRow.matches_of_bits fun k hk => by interval_cases k <;> simp only [encode, rowOf, bit_kXYm] <;> simp, by simp only [rowOf]; decide⟩

theorem TableRow.sneReg (x : Reg) (y : Reg) : TableRow.Statement (.sneReg x y) :=
  ⟨TableRow.matches_of_bits fun k hk => by interval_cases k <;> simp only [encode, rowOf, bit_kXYm] <;> simp, by simp only [rowOf]; decide⟩

theorem TableRow.ldI (nnn : Imm12) : TableRow.Statement (.ldI nnn) :=
  ⟨TableRow.matches_of_bits fun k hk => by interval_cases k <;> simp only [encode, rowOf, bit_kNNN] <;> simp, by simp only [rowOf]; decide⟩

theorem TableRow.jpV0 (nnn : Imm12) : TableRow.Statement (.jpV0 nnn) :=
  ⟨TableRow.matches_of_bits fun k hk => by interval_cases k <;> simp only [encode, rowOf, bit_kNNN] <;> simp, by simp only [rowOf]; decide⟩

theorem TableRow.rnd (x : Reg) (nn : Byte) : TableRow.Statement (.rnd x nn) :=
  ⟨TableRow.matches_of_bits fun k hk => by interval_cases k <;> simp only [encode, rowOf, bit_kXNN] <;> simp, by simp only [rowOf]; decide⟩

theorem TableRow.drw (x : Reg) (y : Reg) (n : Nibble) : TableRow.Statement (.drw x y n) :=
  ⟨TableRow.matches_of_bits fun k hk => by interval_cases k <;> simp only [encode, rowOf, bit_kXYm] <;> simp, by simp only [rowOf]; decide⟩

theorem TableRow.skp (x : Reg) : TableRow.Statement (.skp x) :=
  ⟨TableRow.matches_of_bits fun k hk => by interval_cases k <;> simp only [encode, rowOf, bit_kXNN] <;> simp, by simp only [rowOf]; decide⟩

theorem TableRow.sknp (x : Reg) : TableRow.Statement (.sknp x) :=
  ⟨TableRow.matches_of_bits fun k hk => by interval_cases k <;> simp only [encode, rowOf, bit_kXNN] <;> simp, by simp only [rowOf]; decide⟩

theorem TableRow.ldVxDt (x : Reg) : TableRow.Statement (.ldVxDt x) :=
  ⟨TableRow.matches_of_bits fun k hk => by interval_cases k <;> simp only [encode, rowOf, bit_kXNN] <;> simp, by simp only [rowOf]; decide⟩

theorem TableRow.ldVxK (x : Reg) : TableRow.Statement (.ldVxK x) :=
  ⟨TableRow.matches_of_bits fun k hk => by interval_cases k <;> simp only [encode, rowOf, bit_kXNN] <;> simp, by simp only [rowOf]; decide⟩

theorem TableRow.ldDtVx (x : Reg) : TableRow.Statement (.ldDtVx x) :=
  ⟨TableRow.matches_of_bits fun k hk => by interval_cases k <;> simp only [encode, rowOf, bit_kXNN] <;> simp, by simp only [rowOf]; decide⟩

theorem TableRow.ldStVx (x : Reg) : TableRow.Statement (.ldStVx x) :=
  ⟨TableRow.matches_of_bits fun k hk => by interval_cases k <;> simp only [encode, rowOf, bit_kXNN] <;> simp, by simp only [rowOf]; decide⟩

theorem TableRow.addI (x : Reg) : TableRow.Statement (.addI x) :=
  ⟨TableRow.matches_of_bits fun k hk => by interval_cases k <;> simp only [encode, rowOf, bit_kXNN] <;> simp, by simp only [rowOf]; decide⟩

theorem TableRow.ldF (x : Reg) : TableRow.Statement (.ldF x) :=
  ⟨TableRow.matches_of_bits fun k hk => by interval_cases k <;> simp only [encode, rowOf, bit_kXNN] <;> simp, by simp only [rowOf]; decide⟩

theorem TableRow.ldB (x : Reg) : TableRow.Statement (.ldB x) :=
  ⟨TableRow.matches_of_bits fun k hk => by interval_cases k <;> simp only [encode, rowOf, bit_kXNN] <;> simp, by simp only [rowOf]; decide⟩

theorem TableRow.stRegs (x : Reg) : TableRow.Statement (.stRegs x) :=
  ⟨TableRow.matches_of_bits fun k hk => by interval_cases k <;> simp only [encode, rowOf, bit_kXNN] <;> simp, by simp only [rowOf]; decide⟩

theorem TableRow.ldRegs (x : Reg) : TableRow.Statement (.ldRegs x) :=
  ⟨TableRow.matches_of_bits fun k hk => by interval_cases k <;> simp only [encode, rowOf, bit_kXNN] <;> simp, by simp only [rowOf]; decide⟩

end Sys2Proof.Laws
end

