-- ==== Sys2Proof/Tests/Slice0.lean ====
section
/-! SUPPORT. Tests of the model against the worked examples and vectors of spec/95_test_vectors.md (the vector's id stands in each
comment) and the encodings of 30_encoding.md R100. Each is one step on a small state. Below them, the witnesses of the obligations. -/

namespace Sys2Proof.Tests

open Sys2Proof.Machine

/-! ### Well-formedness: each check refuses an ill-formed term -/

theorem test_legalWord_accepts : [0x00E0#16, 0x00EE#16, 0x5FF0#16, 0x8FFE#16, 0x9000#16, 0xEF9E#16, 0xE0A1#16, 0xF00A#16,
    0xFF65#16, 0xD000#16, 0xBFFF#16, 0xCFFF#16].all legalWord = true := by decide
/-- The spot checks of section 2.10, a word of every group of R104. -/
theorem test_legalWord_refuses : [0x0000#16, 0x00E1#16, 0x00FF#16, 0x0123#16, 0x5001#16, 0x8008#16, 0x800F#16, 0x9001#16,
    0xE09F#16, 0xE19D#16, 0xF000#16, 0xF008#16, 0xF0FF#16, 0xFFFF#16].any legalWord = false := by decide
theorem test_config_standard_legal : Config.standard.legal = true ∧ Config.standard.timingLegal = true := by decide
theorem test_config_eti660_legal : { Config.standard with loadAddr := 0x600#16, stackDepth := 12 }.legal = true := by decide
theorem test_config_loadAddr_refused : { Config.standard with loadAddr := 0x300#16 }.legal = false := by decide
theorem test_config_stackDepth_refused : { Config.standard with stackDepth := 14 }.legal = false := by decide
theorem test_config_fontBase_boundary : { Config.standard with fontBase := 0x1B0#16 }.legal = true
    ∧ { Config.standard with fontBase := 0x1B1#16 }.legal = false := by decide
theorem test_config_ips_refused : { Config.standard with ips := 0 }.timingLegal = false
    ∧ { Config.standard with ips := 100001, clkHz := 200000 }.timingLegal = false := by decide
theorem test_config_clkHz_refused : { Config.standard with ips := 30, clkHz := 59 }.timingLegal = false
    ∧ { Config.standard with clkHz := 599 }.timingLegal = false := by decide
/-- L1 to L4, the lengths only. -/
theorem test_image_length : 0x200 + 3584 ≤ 4096 ∧ ¬ 0x200 + 3585 ≤ 4096 ∧ 0x600 + 2560 ≤ 4096 ∧ ¬ 0x600 + 2561 ≤ 4096 := by decide
theorem test_image_refused : { Config.standard with loadAddr := 0xFFF#16 }.imageFits [0#8, 0#8] = false
    ∧ { Config.standard with loadAddr := 0xFFF#16 }.imageFits [0#8] = true := by decide

/-! ### Decode: every constructor from a word written out from R100's pattern -/

theorem test_decode_fixed : decode 0x00E0#16 = .ok .cls ∧ decode 0x00EE#16 = .ok .ret := by decide
theorem test_decode_kNNN : decode 0x1ABC#16 = .ok (.jp 0xABC#12) ∧ decode 0x2300#16 = .ok (.call 0x300#12)
    ∧ decode 0xA2F0#16 = .ok (.ldI 0x2F0#12) ∧ decode 0xB2F1#16 = .ok (.jpV0 0x2F1#12) := by decide
theorem test_decode_kXNN : decode 0x3A42#16 = .ok (.seImm 0xA#4 0x42#8) ∧ decode 0x4A42#16 = .ok (.sneImm 0xA#4 0x42#8)
    ∧ decode 0x600A#16 = .ok (.ldImm 0x0#4 0x0A#8) ∧ decode 0x7320#16 = .ok (.addImm 0x3#4 0x20#8)
    ∧ decode 0xC10F#16 = .ok (.rnd 0x1#4 0x0F#8) := by decide
theorem test_decode_kXYm : decode 0x5120#16 = .ok (.seReg 0x1#4 0x2#4) ∧ decode 0x9120#16 = .ok (.sneReg 0x1#4 0x2#4)
    ∧ decode 0x8120#16 = .ok (.ldReg 0x1#4 0x2#4) ∧ decode 0x8121#16 = .ok (.orReg 0x1#4 0x2#4)
    ∧ decode 0x8122#16 = .ok (.andReg 0x1#4 0x2#4) ∧ decode 0x8123#16 = .ok (.xorReg 0x1#4 0x2#4)
    ∧ decode 0x8014#16 = .ok (.addReg 0x0#4 0x1#4) ∧ decode 0x8125#16 = .ok (.sub 0x1#4 0x2#4)
    ∧ decode 0x8126#16 = .ok (.shr 0x1#4 0x2#4) ∧ decode 0x8127#16 = .ok (.subn 0x1#4 0x2#4)
    ∧ decode 0x812E#16 = .ok (.shl 0x1#4 0x2#4) := by decide
theorem test_decode_kXYN : decode 0xD125#16 = .ok (.drw 0x1#4 0x2#4 0x5#4) := by decide
theorem test_decode_kXmm : decode 0xE49E#16 = .ok (.skp 0x4#4) ∧ decode 0xE4A1#16 = .ok (.sknp 0x4#4)
    ∧ decode 0xF307#16 = .ok (.ldVxDt 0x3#4) ∧ decode 0xF20A#16 = .ok (.ldVxK 0x2#4) ∧ decode 0xF315#16 = .ok (.ldDtVx 0x3#4)
    ∧ decode 0xF318#16 = .ok (.ldStVx 0x3#4) ∧ decode 0xF21E#16 = .ok (.addI 0x2#4) ∧ decode 0xF029#16 = .ok (.ldF 0x0#4)
    ∧ decode 0xF533#16 = .ok (.ldB 0x5#4) ∧ decode 0xF255#16 = .ok (.stRegs 0x2#4) ∧ decode 0xF265#16 = .ok (.ldRegs 0x2#4) := by
  decide
/-- One word of each illegal group of R104, by name. -/
theorem test_decode_illegal : decode 0x0123#16 = .error (.illegal0NNN 0x0123#16)
    ∧ decode 0x5121#16 = .error (.illegal5XYN 0x5121#16) ∧ decode 0x8018#16 = .error (.illegal8XYN 0x8018#16)
    ∧ decode 0x9001#16 = .error (.illegal9XYN 0x9001#16) ∧ decode 0xE09F#16 = .error (.illegalEXNN 0xE09F#16)
    ∧ decode 0xF008#16 = .error (.illegalFXNN 0xF008#16) ∧ decodeBytes [0x60#8] = .error .truncated := by decide
/-- R110: `LD V0, 0x0A` is the bytes `60 0A`, high byte first. -/
theorem test_bytes : encodeBytes (.ldImm 0x0#4 0x0A#8) = [0x60#8, 0x0A#8] ∧ encodeBytes (.addReg 0x0#4 0x1#4) = [0x80#8, 0x14#8]
    ∧ decodeBytes [0x60#8, 0x0A#8, 0x61#8] = .ok (.ldImm 0x0#4 0x0A#8, [0x61#8])
    ∧ decodeTableWord 16 0x8014 = some (.addReg 0x0#4 0x1#4) ∧ decodeTableWord 16 0x5001 = none := by decide

/-! ### One step of each instruction -/

/-- One step with the word at `PC`, and the part of the next state a test looks at. -/
def look {α : Type} (w : Nat) (s : State) (f : State → α) : Option α :=
  match step (s.withFetchWord 16 w) with
  | .next t => some (f t)
  | _ => none

/-- The reset state with two registers and `VF` set. -/
def regs (a b f : Byte) : State := ((State.reset.setV 0#4 a).setV 1#4 b).setV vf f

/-- `V0`, `V1` and `VF`. -/
def v01f (t : State) : Byte × Byte × Byte := (t.getV 0#4, t.getV 1#4, t.getV vf)

/-- The fault registers, as 95_test_vectors.md writes them, and the run state. -/
structure FaultReport where
  kind : BitVec 3
  pc : Word
  opcode : Word
  op : BitVec 2
  addr : BitVec 17
  run : RunState
deriving DecidableEq, Repr

/-- The fault registers of a state. -/
def faultOf (t : State) : FaultReport :=
  ⟨faultKindCode t.faultKind, t.faultPc, t.faultOpcode, faultOpCode t.faultOp, t.faultAddr, t.run⟩

/-- The state with other straps. -/
def withCfg (s : State) (c : Config) : State := { s with cfg := c }

/-- T1. -/
theorem test_jp : look 0x1ABC State.reset (·.pc) = some 0x0ABC#16 := by decide
/-- T3. -/
theorem test_call : look 0x2300 State.reset (fun t => (t.stack, t.sp, t.pc)) = some ([0x0202#16], 1, 0x0300#16) := by decide
/-- P5 with `STACK_DEPTH = 12`: the thirteenth call. -/
theorem test_call_overflow : look 0x2200 (withCfg { State.reset with stack := List.replicate 12 0x0202#16 }
      { Config.standard with stackDepth := 12 }) (fun t => (faultOf t, t.sp, t.pc))
    = some (⟨3#3, 0x0200#16, 0x2200#16, 0#2, 0x0C#17, .halted⟩, 12, 0x0200#16) := by decide
/-- R121's example. -/
theorem test_ret : look 0x00EE { State.reset with stack := [0x0300#16, 0x0204#16], pc := 0x0300#16 } (fun t => (t.pc, t.stack))
    = some (0x0204#16, [0x0300#16]) := by decide
/-- T4. -/
theorem test_ret_underflow : look 0x00EE State.reset (fun t => (faultOf t, t.pc))
    = some (⟨4#3, 0x0200#16, 0x00EE#16, 0#2, 0#17, .halted⟩, 0x0200#16) := by decide
/-- T5. -/
theorem test_jpV0 : look 0xB300 ((State.reset.setV 0#4 0x04#8).setV 3#4 0x10#8) (·.pc) = some 0x0304#16
    ∧ look 0xB300 (withCfg ((State.reset.setV 0#4 0x04#8).setV 3#4 0x10#8) { Config.standard with qJumpVx := true }) (·.pc)
      = some 0x0310#16 := by decide
/-- T7: the largest reachable `PC`. -/
theorem test_jpV0_top : look 0xBFFF (withCfg (State.reset.setV vf 0xFF#8) { Config.standard with qJumpVx := true }) (·.pc)
    = some 0x10FE#16 := by decide
/-- S1, S2. -/
theorem test_seImm : look 0x3A42 (State.reset.setV 0xA#4 0x42#8) (·.pc) = some 0x0204#16
    ∧ look 0x3A42 (State.reset.setV 0xA#4 0x43#8) (·.pc) = some 0x0202#16 := by decide
/-- S3, S4. -/
theorem test_sneImm : look 0x4A42 (State.reset.setV 0xA#4 0x42#8) (·.pc) = some 0x0202#16
    ∧ look 0x4A42 (State.reset.setV 0xA#4 0x43#8) (·.pc) = some 0x0204#16 := by decide
/-- S5, S6. -/
theorem test_seReg : look 0x5120 ((State.reset.setV 1#4 7#8).setV 2#4 7#8) (·.pc) = some 0x0204#16
    ∧ look 0x5120 ((State.reset.setV 1#4 7#8).setV 2#4 8#8) (·.pc) = some 0x0202#16 := by decide
/-- S7, S8. -/
theorem test_sneReg : look 0x9120 ((State.reset.setV 1#4 7#8).setV 2#4 7#8) (·.pc) = some 0x0202#16
    ∧ look 0x9120 ((State.reset.setV 1#4 7#8).setV 2#4 8#8) (·.pc) = some 0x0204#16 := by decide
/-- M1. -/
theorem test_ldImm : look 0x6ABC State.reset (fun t => (t.getV 0xA#4, t.pc)) = some (0xBC#8, 0x0202#16) := by decide
/-- M2: no carry flag. -/
theorem test_addImm : look 0x7001 (regs 0xFF#8 0#8 0x55#8) v01f = some (0x00#8, 0#8, 0x55#8) := by decide
/-- M3: `VF` as a plain register wraps. -/
theorem test_addImm_vf : look 0x7F01 (regs 0#8 0#8 0xFF#8) v01f = some (0#8, 0#8, 0x00#8) := by decide
/-- A1. -/
theorem test_ldReg : look 0x8010 (regs 0xCA#8 0x53#8 0x77#8) v01f = some (0x53#8, 0x53#8, 0x77#8) := by decide
/-- A2. -/
theorem test_orReg : look 0x8011 (regs 0xCA#8 0x53#8 0x77#8) v01f = some (0xDB#8, 0x53#8, 0x77#8) := by decide
/-- A33: the logic result stays in `VF`. -/
theorem test_orReg_vf : look 0x8F11 (regs 0#8 6#8 1#8) v01f = some (0#8, 6#8, 7#8) := by decide
/-- A3. -/
theorem test_andReg : look 0x8012 (regs 0xCA#8 0x53#8 0x77#8) v01f = some (0x42#8, 0x53#8, 0x77#8) := by decide
/-- A4. -/
theorem test_xorReg : look 0x8013 (regs 0xCA#8 0x53#8 0x77#8) v01f = some (0x99#8, 0x53#8, 0x77#8) := by decide
/-- A6, A9. -/
theorem test_addReg : look 0x8014 (regs 0xFF#8 0xFF#8 0x77#8) v01f = some (0xFE#8, 0xFF#8, 1#8)
    ∧ look 0x8014 (regs 0x7F#8 0x80#8 0x77#8) v01f = some (0xFF#8, 0x80#8, 0#8) := by decide
/-- E7: `X = F` keeps the flag only; `Y = F` adds the old `VF`. -/
theorem test_addReg_vf : look 0x8F14 (regs 0#8 0xFE#8 3#8) v01f = some (0#8, 0xFE#8, 1#8)
    ∧ look 0x80F4 (regs 0x10#8 0#8 1#8) v01f = some (0x11#8, 0#8, 0#8) := by decide
/-- A10, A12, A13. -/
theorem test_sub : look 0x8015 (regs 0x0A#8 0x0C#8 0x77#8) v01f = some (0xFE#8, 0x0C#8, 0#8)
    ∧ look 0x8015 (regs 7#8 7#8 0x77#8) v01f = some (0#8, 7#8, 1#8)
    ∧ look 0x8015 (regs 0#8 1#8 0x77#8) v01f = some (0xFF#8, 1#8, 0#8) := by decide
/-- A15, A16, A18. -/
theorem test_subn : look 0x8017 (regs 0x0A#8 0x0C#8 0x77#8) v01f = some (2#8, 0x0C#8, 1#8)
    ∧ look 0x8017 (regs 0x0C#8 0x0A#8 0x77#8) v01f = some (0xFE#8, 0x0A#8, 0#8)
    ∧ look 0x8017 (regs 0#8 0xFF#8 0x77#8) v01f = some (0xFF#8, 0xFF#8, 1#8) := by decide
/-- A19, both settings. -/
theorem test_shr : look 0x8016 (regs 5#8 0x80#8 0x77#8) v01f = some (2#8, 0x80#8, 1#8)
    ∧ look 0x8016 (withCfg (regs 5#8 0x80#8 0x77#8) { Config.standard with qShiftVy := true }) v01f
      = some (0x40#8, 0x80#8, 0#8) := by decide
/-- A30: `X = F` under `Q_SHIFT_VY = 1`. -/
theorem test_shr_vf : look 0x8F16 (withCfg (regs 0#8 4#8 0xFF#8) { Config.standard with qShiftVy := true }) v01f
    = some (0#8, 4#8, 0#8) := by decide
/-- A22, both settings. -/
theorem test_shl : look 0x801E (regs 0x81#8 1#8 0x77#8) v01f = some (2#8, 1#8, 1#8)
    ∧ look 0x801E (withCfg (regs 0x81#8 1#8 0x77#8) { Config.standard with qShiftVy := true }) v01f
      = some (2#8, 1#8, 0#8) := by decide
/-- A28. -/
theorem test_shl_vf : look 0x8FFE (regs 0#8 0#8 0x81#8) v01f = some (0#8, 0#8, 1#8) := by decide
/-- X1. -/
theorem test_ldI : look 0xAFFF State.reset (fun t => (t.i, t.pc)) = some (0x0FFF#16, 0x0202#16) := by decide
/-- X2, X3: no flag, and modulo 65536. -/
theorem test_addI : look 0xF01E ((regs 1#8 0#8 7#8).setI 0x0FFF#16) (fun t => (t.i, t.getV vf)) = some (0x1000#16, 7#8)
    ∧ look 0xF01E ((regs 2#8 0#8 7#8).setI 0xFFFF#16) (·.i) = some 0x0001#16 := by decide
/-- X8. -/
theorem test_ldF : look 0xF029 (regs 0x1A#8 0#8 0#8) (·.i) = some 0x0082#16 := by decide
/-- X10. -/
theorem test_ldF_base : look 0xF029 (withCfg (regs 0x0F#8 0#8 0#8) { Config.standard with fontBase := 0#16 }) (·.i)
    = some 0x004B#16 := by decide
/-- X11, the byte supplied by the harness; and a second supplied byte is left for the next draw. -/
theorem test_rnd : look 0xC00F { State.reset with rnd := [0xA7#8, 0x11#8] } (fun t => (t.getV 0#4, t.rnd, t.draws))
    = some (0x07#8, [0x11#8], 0) := by decide
/-- X12: a zero mask gives 0 whatever the draw is, a free one here. -/
theorem test_rnd_free : look 0xC000 (State.reset.setV 0#4 0x55#8) (fun t => (t.rnd, t.draws, t.pc)) = some ([], 1, 0x0202#16) := by
  decide
/-- D13. -/
theorem test_cls : look 0x00E0 ((regs 0#8 0#8 9#8).setDisp (togglePixel blankFrame 5 6))
    (fun t => (t.disp, t.fcFrame, t.fcPending, t.getV vf, t.pc)) = some (blankFrame, blankFrame, true, 9#8, 0x0202#16) := by decide
/-- A picture with the listed pixels set. -/
def picture (ps : List (Nat × Nat)) : Frame := ps.foldl (fun f p => togglePixel f p.1 p.2) blankFrame

/-- D4 and D5: glyph 0 at (62, 30), wrapped, and clipped. -/
theorem test_drw_edges : look 0xD015 ((regs 62#8 30#8 9#8).setI 0x50#16) (fun t => (t.disp, t.getV vf)) = some (picture
      [(62, 30), (63, 30), (0, 30), (1, 30), (62, 31), (1, 31), (62, 0), (1, 0), (62, 1), (1, 1), (62, 2), (63, 2), (0, 2), (1, 2)],
      0#8)
    ∧ look 0xD015 (withCfg ((regs 62#8 30#8 9#8).setI 0x50#16) { Config.standard with qClip := true })
      (fun t => (t.disp, t.getV vf)) = some (picture [(62, 30), (63, 30), (62, 31)], 0#8) := by decide
/-- D9 collides; D11 faults with no effect. -/
theorem test_drw_collision_and_fault : look 0xD001 ((State.reset.setI 0x50#16).setDisp (picture [(0, 0), (5, 0)]))
      (fun t => (t.disp, t.getV vf, t.fcPending)) = some (picture [(1, 0), (2, 0), (3, 0), (5, 0)], 1#8, true)
    ∧ look 0xD002 ((regs 0#8 0#8 9#8).setI 0x0FFF#16) (fun t => (faultOf t, t.disp, t.getV vf, t.fcPending))
      = some (⟨2#3, 0x0200#16, 0xD002#16, 2#2, 0x1000#17, .halted⟩, blankFrame, 9#8, false) := by decide
/-- K5 and K2. -/
theorem test_skp : look 0xE09E { regs 0x15#8 0#8 0#8 with keys := 0x0020#16 } (·.pc) = some 0x0204#16
    ∧ look 0xE09E (regs 5#8 0#8 0#8) (·.pc) = some 0x0202#16 := by decide
/-- K7 and K4. -/
theorem test_sknp : look 0xE0A1 { regs 0xFF#8 0#8 0#8 with keys := 0x8000#16 } (·.pc) = some 0x0202#16
    ∧ look 0xE0A1 (regs 5#8 0#8 0#8) (·.pc) = some 0x0204#16 := by decide
/-- E2, the `Exec` step. -/
theorem test_ldVxK : look 0xF20A State.reset (fun t => (t.run, t.waitX, t.pc, t.getV 2#4)) = some (.waitKey, 2#4, 0x0202#16, 0#8) := by
  decide
/-- K9, the `Wake` step: the lowest of keys 2, 8 and 15. -/
theorem test_wake : let t := wake { State.reset with run := .waitKey, waitX := 5#4, keys := 0x8104#16 }
    (t.run, t.getV 5#4, t.pc) = (.running, 2#8, 0x0200#16) := by decide
/-- R201's example. -/
theorem test_ldVxDt : look 0xF307 (State.reset.setDt 0x1E#8) (fun t => (t.getV 3#4, t.dt)) = some (0x1E#8, 0x1E#8) := by decide
/-- R202's example. -/
theorem test_ldDtVx : look 0xF315 (State.reset.setV 3#4 0x3C#8) (fun t => (t.dt, t.st)) = some (0x3C#8, 0#8) := by decide
/-- R203's example. -/
theorem test_ldStVx : look 0xF318 (State.reset.setV 3#4 5#8) (fun t => (t.st, t.dt, t.soundActive)) = some (5#8, 0#8, true) := by decide
/-- TM3, TM6. -/
theorem test_tick : (tick (State.reset.setSt 1#8)).st = 0#8 ∧ (tick (tick (State.reset.setSt 1#8))).st = 0#8
    ∧ (tick { State.reset.setDt 5#8 with run := .halted }).dt = 5#8 := by decide
/-- B1, 234 and 7. -/
theorem test_ldB : look 0xF033 ((regs 234#8 0#8 0#8).setI 0x300#16) (fun t => (t.bytesFrom 0x300 3, t.i)) = some ([2#8, 3#8, 4#8], 0x300#16)
    ∧ look 0xF033 ((regs 7#8 0#8 0#8).setI 0x300#16) (·.bytesFrom 0x300 3) = some [0#8, 0#8, 7#8] := by decide
/-- B2 and B4. -/
theorem test_ldB_edge : look 0xF033 ((regs 0xFF#8 0#8 0#8).setI 0x0FFD#16) (·.bytesFrom 0xFFD 3) = some [2#8, 5#8, 5#8]
    ∧ look 0xF033 (State.reset.setI 0x1234#16) faultOf = some ⟨2#3, 0x0200#16, 0xF033#16, 3#2, 0x1234#17, .halted⟩ := by decide
/-- R212's example, both settings. -/
theorem test_stRegs : look 0xF155 ((regs 0x11#8 0x22#8 0#8).setI 0x400#16) (fun t => (t.bytesFrom 0x400 3, t.i))
      = some ([0x11#8, 0x22#8, 0#8], 0x400#16)
    ∧ look 0xF155 (withCfg ((regs 0x11#8 0x22#8 0#8).setI 0x400#16) { Config.standard with qIncI := true }) (·.i) = some 0x402#16 := by
  decide
/-- B6: nothing written, `I` unchanged. -/
theorem test_stRegs_fault : look 0xFF55 (withCfg ((regs 0xAA#8 0#8 0#8).setI 0x0FF1#16) { Config.standard with qIncI := true })
    (fun t => (faultOf t, t.byteAt 0xFF1, t.i))
    = some (⟨2#3, 0x0200#16, 0xFF55#16, 3#2, 0x1000#17, .halted⟩, 0#8, 0x0FF1#16) := by decide
/-- B10: the instruction's own bytes; `V3` is above `V[X]`. -/
theorem test_ldRegs : look 0xF265 ((State.reset.setI 0x200#16).setV 3#4 0x99#8)
    (fun t => (t.getV 0#4, t.getV 1#4, t.getV 2#4, t.getV 3#4)) = some (0xF2#8, 0x65#8, 0#8, 0x99#8) := by decide
/-- B8. -/
theorem test_ldRegs_fault : look 0xF165 ((regs 9#8 0#8 0#8).setI 0x0FFF#16) (fun t => (faultOf t, t.getV 0#4))
    = some (⟨2#3, 0x0200#16, 0xF165#16, 2#2, 0x1000#17, .halted⟩, 9#8) := by decide

/-! ### Fetch, decode fault, reset, the other agents -/

/-- T9 and T7's second step. -/
theorem test_fetch_faults : (match step { State.reset with pc := 0x0FFF#16 } with | .next t => some (faultOf t) | _ => none)
      = some ⟨2#3, 0x0FFF#16, 0#16, 1#2, 0x1000#17, .halted⟩
    ∧ (match step { State.reset with pc := 0x10FE#16 } with | .next t => some (faultOf t) | _ => none)
      = some ⟨2#3, 0x10FE#16, 0#16, 1#2, 0x10FE#17, .halted⟩ := by decide
/-- L5: the first `Exec` of an empty image. -/
theorem test_decode_fault : (match step State.reset with | .next t => some (faultOf t) | _ => none)
    = some ⟨1#3, 0x0200#16, 0#16, 0#2, 0x200#17, .halted⟩ := by decide
/-- L6: where the image, the font and zero lie. -/
theorem test_reset_image : let t := resetTo Config.standard [0x12#8, 0x00#8] State.reset
    (t.bytesFrom 0x4F 7, t.bytesFrom 0x9F 2, t.bytesFrom 0x200 3, t.pc, t.run)
      = ([0#8, 0xF0#8, 0x90#8, 0x90#8, 0x90#8, 0xF0#8, 0x20#8], [0x80#8, 0#8], [0x12#8, 0#8, 0#8], 0x200#16, .running) := by decide
/-- R226: an illegal configuration ends reset in the load fault (L4's report at 0x600 with a stack of 14). -/
theorem test_load_fault : faultOf (resetTo { Config.standard with loadAddr := 0x600#16, stackDepth := 14 } [] State.reset)
    = ⟨5#3, 0x0600#16, 0#16, 0#2, 0x1000#17, .halted⟩ := by decide
/-- A halted machine with an empty script has no step. -/
theorem test_halted_step : (match step { State.reset with run := .halted, faultKind := .decode } with
    | .fault r => some r | _ => none) = some (.halted .decode) := by decide
/-- R284 at 100 Hz (E6): of edges 1 to 5, the ticks fall on 2, 4 and 5. -/
theorem test_divider : (divideRun 100 60 1 0).2 = 0 ∧ (divideRun 100 60 2 0).2 = 1 ∧ (divideRun 100 60 3 0).2 = 1
    ∧ (divideRun 100 60 4 0).2 = 2 ∧ (divideRun 100 60 5 0).2 = 3 := by decide

/-! ### Witnesses: a concrete state and operands that meet the hypotheses of each obligation that has some, each clause at a boundary -/

/-- Some answer is a next state. -/
def isNext (o : Result) : Bool := match o with
  | .next _ => true
  | _ => false

/-- Reset with the word `w` at `PC`. -/
def fetching (w : Nat) : State := State.reset.withFetchWord 16 w

/-- Reset with `I` at `a` and `V0`, `V1` set. -/
def indexed (a : Word) : State := (regs 0x11#8 0x22#8 0#8).setI a

/-- A machine in the middle of a run: one call deep, a byte stored at 0x300, a frame published. -/
def midRun : State :=
  { State.reset with
    pc := 0x0300#16, stack := [0x0202#16], mem := [(0x300, 0x60#8)], disp := picture [(3, 4)], fcFrame := picture [(3, 4)],
    fcPending := true }

/-- A machine that a fault has halted. -/
def halted : State := { State.reset with run := .halted, faultKind := .decode, fcPending := true }

/-- A machine that waits for a key. -/
def waiting (keys : Word) : State := { State.reset with run := .waitKey, waitX := 5#4, keys := keys, dt := 9#8 }

theorem witness_EncodeOfDecode : decode 0x8014#16 = .ok (.addReg 0x0#4 0x1#4) := by decide
theorem witness_DecodeFollowsOpcodeTable : decode 0xF065#16 = .ok (.ldRegs 0x0#4) ∧ legalWord 0xF065#16 = true := by decide
theorem witness_StepRunsDecodedInstruction : (fetching 0x600A).run = .running ∧ (fetching 0x600A).pc.toNat ≤ 4094
    ∧ decodeBytes ((fetching 0x600A).bytesFrom 0x200 2) = .ok (.ldImm 0x0#4 0x0A#8, []) ∧ (fetching 0x600A).script = [] := by decide
/-- The same at the last address an instruction can be fetched at, with the Engine's step in the script. -/
theorem witness_StepRunsDecodedInstruction_top :
    let s := { ({ State.reset with pc := 0x0FFE#16 }).withFetchWord 16 0x1200 with script := [.engine, .tick] }
    s.run = .running ∧ s.pc.toNat = 4094 ∧ decodeBytes (s.bytesFrom s.pc.toNat 2) = .ok (.jp 0x200#12, [])
      ∧ s.script = .engine :: [.tick] := by decide
theorem witness_FetchReadsTwoBytesOrFaults : ({ State.reset with pc := 0x0FFE#16 } : State).pc.toNat ≤ 0xFFE
    ∧ 0xFFE < ({ State.reset with pc := 0x0FFF#16 } : State).pc.toNat ∧ 0xFFE < ({ State.reset with pc := 0x1000#16 } : State).pc.toNat
    ∧ State.reset.run = .running := by decide
theorem witness_IllegalWordTakesDecodeFault : (match fetch (fetching 0x8018) with | .ok op => some op | .error _ => none) = some 0x8018#16
    ∧ (fetching 0x8018).run = .running ∧ (fetching 0x8018).script = [] ∧ illegalByGroup 0x8018#16 :=
  ⟨by decide, by decide, by decide, .inr (.inr (.inl (by decide)))⟩
theorem witness_FaultsArePreciseAndExact : faultsOn State.reset .ret
    ∧ faultsOn { State.reset with stack := List.replicate 16 0#16 } (.call 0x200#12) ∧ faultsOn (indexed 0x0FFE#16) (.ldB 0x0#4)
    ∧ ¬ faultsOn (indexed 0x0FFD#16) (.ldB 0x0#4) ∧ ¬ faultsOn (indexed 0xFFFF#16) (.drw 0x0#4 0x1#4 0x0#4)
    ∧ (indexed 0x0FFD#16).run = .running := by simp only [faultsOn]; decide
theorem witness_HaltedIsAbsorbing : halted.run = .halted ∧ halted.script = [] := by decide
theorem witness_ResetWritesEveryState : Config.standard.legal = true
    ∧ Config.standard.loadAddr.toNat + (List.replicate 3584 0x12#8).length ≤ 4096 := by
  rw [List.length_replicate]; decide
theorem witness_LoadFaultHaltsReset : { Config.standard with stackDepth := 14 }.legal = false
    ∧ 4096 < Config.standard.loadAddr.toNat + (List.replicate 3585 0x12#8).length
    ∧ (List.replicate 3584 0x12#8).length = 4096 - Config.standard.loadAddr.toNat ∧ Config.standard.legal = true := by
  rw [List.length_replicate, List.length_replicate]; decide
theorem witness_midRun_inv : midRun.Inv where
  memory := by decide
  stackBound := by decide
  stackEntries := by simp [midRun]
  pcRange _ := by decide
  haltedIff := by decide
  published _ := rfl
  configLegal _ := by decide
theorem witness_InvariantKeptByEveryStep : midRun.Inv ∧ isNext (step midRun) = true := ⟨witness_midRun_inv, by decide⟩
theorem witness_ProgramCounterAdvance : isNext (exec (.seReg 0x1#4 0x1#4) midRun) = true ∧ ¬ faultsOn midRun (.seReg 0x1#4 0x1#4)
    ∧ isSkip (.seReg 0x1#4 0x1#4) = true ∧ isNext (exec .cls midRun) = true ∧ ¬ faultsOn midRun .cls ∧ isSkip .cls = false
    ∧ setsPc .cls = false := by simp only [faultsOn]; decide
theorem witness_RegistersChangeOnlyWhereNamed : isNext (exec (.ldRegs 0x1#4) midRun) = true ∧ writesReg (.ldRegs 0x1#4) 0x2#4 = false
    ∧ writesReg (.addReg 0x1#4 0x2#4) 0x2#4 = false := by decide
theorem witness_EachStateHasItsWriters : isNext (exec (.stRegs 0x1#4) midRun) = true ∧ writesIndex midRun.cfg (.stRegs 0x1#4) = false := by
  decide
theorem witness_OnlyStoresChangeMemory : isNext (exec (.ldB 0x0#4) (indexed 0x0300#16)) = true
    ∧ 0x2FF < (indexed 0x0300#16).i.toNat ∧ (indexed 0x0300#16).i.toNat + bytesStored (.ldB 0x0#4) ≤ 0x303 := by decide
theorem witness_OnlyDisplayInstructionsPublish : isNext (exec .cls midRun) = true ∧ mutatesDisplay .cls = true ∧ ¬ faultsOn midRun .cls
    ∧ mutatesDisplay (.ldI 0x000#12) = false ∧ faultsOn (indexed 0x1000#16) (.drw 0x0#4 0x1#4 0x1#4) := by
  simp only [faultsOn]; decide
theorem witness_OnlyWaitForKeySuspends : midRun.run = .running := by decide
theorem witness_KeysAndStrapsChangeFromOutsideOnly : isNext (step midRun) = true
    ∧ (∀ k, midRun.script.head? ≠ some (.setKeys k)) ∧ (∀ c image, midRun.script.head? ≠ some (.reset c image)) :=
  ⟨by decide, fun _ => by simp [midRun, State.reset], fun _ _ => by simp [midRun, State.reset]⟩
theorem witness_TakeIsInvisibleToPrograms : isNext (step midRun) = true
    ∧ (match step halted with | .fault r => some r | _ => none) = some (.halted .decode) := by decide
theorem witness_NestedCallsReturn : State.reset.sp + ((List.replicate 15 0x300#12).length + 1) ≤ State.reset.cfg.stackDepth
    ∧ State.reset.sp + (List.replicate 16 0x300#12).length = State.reset.cfg.stackDepth := by decide
theorem witness_FlagWriters : (0x0#4 : Reg) ≠ vf ∧ (0x1#4 : Reg) ≠ 0x0#4 ∧ (0x1#4 : Reg) ≠ vf := by decide
theorem witness_ShiftsBySourceQuirk :
    0x11#8 = (if midRun.cfg.qShiftVy = true then (indexed 0#16).getV 0x1#4 else (indexed 0#16).getV 0x0#4)
    ∧ 0x22#8 = (if { Config.standard with qShiftVy := true }.qShiftVy = true then (indexed 0#16).getV 0x1#4 else (indexed 0#16).getV 0x0#4) := by
  decide
theorem witness_RandomByteMasked : ({ State.reset with rnd := [0xA7#8, 0x11#8] } : State).rnd = 0xA7#8 :: [0x11#8]
    ∧ State.reset.rnd = [] := by decide
theorem witness_DrawSprite : (0x0#4).toNat = 0 ∧ (indexed 0x0FFF#16).i.toNat + (0x1#4).toNat - 1 ≤ 4095
    ∧ (0 < (0x2#4).toNat ∧ 4095 < (indexed 0x0FFF#16).i.toNat + (0x2#4).toNat - 1) := by decide
/-- The hypotheses of the second draw: the first leaves the coordinates. -/
theorem witness_DrawSprite_twice : look 0xD011 (indexed 0x0050#16) (fun t => (t.getV 0x0#4, t.getV 0x1#4)) = some (0x11#8, 0x22#8) := by
  decide
/-- A position a sprite reaches: row 0, column 0 of glyph 0 at `(0x11, 0x22 mod 32)`. -/
theorem witness_spriteCovers : spriteCovers (indexed 0x0050#16) 0x0#4 0x1#4 0x5#4 17 2 :=
  ⟨0, 0, by decide, by decide, by decide, by decide, by decide, by decide⟩
theorem witness_WakeReportsLowestKey : (waiting 0x0000#16).keys = 0x0000#16 ∧ (waiting 0x8001#16).run = .waitKey
    ∧ (waiting 0x8001#16).keys.getLsbD 0 = true ∧ (waiting 0x8000#16).keys.getLsbD 15 = true
    ∧ (∀ j < 15, (waiting 0x8000#16).keys.getLsbD j = false) ∧ State.reset.run ≠ .waitKey := by decide
theorem witness_TickCountsDown : halted.run = .halted ∧ (waiting 0#16).run ≠ .halted ∧ State.reset.run = .running := by decide
theorem witness_DividerNeverDrifts : 0 < 60 ∧ 60 ≤ 60 ∧ 60 ≤ 100 := by decide
/-- The last edge without and the first with a `Tick`, and without and with an `Exec`, while running. -/
theorem witness_ClockEdgeOrder : ¬ Config.standard.clkHz ≤ 59939 + 60 ∧ Config.standard.clkHz ≤ 59940 + 60
    ∧ 59399 + Config.standard.ips < Config.standard.clkHz ∧ Config.standard.clkHz ≤ 59400 + Config.standard.ips
    ∧ ({ State.reset with tdiv := 59940, idiv := 59400 } : State).run = .running := by decide
/-- Waiting with a key down. -/
theorem witness_ClockEdgeOrder_waiting : (waiting 0x8001#16).run = .waitKey ∧ (waiting 0x8001#16).keys ≠ 0x0000#16 := by decide
/-- R284's order, on an edge with both: `FX07` reads `DT` after the tick. -/
theorem test_clockEdge_tick_before_exec :
    (match perform .clockEdge { (fetching 0xF307).setDt 5#8 with tdiv := 59940, idiv := 59400 } with
      | .next t => some (t.dt, t.getV 3#4, t.tdiv, t.idiv, t.pc)
      | _ => none) = some (4#8, 4#8, 0, 0, 0x0202#16) := by decide
/-- R284: a waiting machine wakes on the edge, with no `Exec` although `idiv` reaches `CLK_HZ`. -/
theorem test_clockEdge_wakes : (match perform .clockEdge { waiting 0x8004#16 with idiv := 59400 } with
      | .next t => some (t.run, t.getV 5#4, t.idiv, t.pc)
      | _ => none) = some (.running, 2#8, 0, 0x0200#16) := by decide
theorem witness_WaitingMachineTicksAtSixtyHertz :
    let s := withCfg (waiting 0x0000#16) { Config.standard with clkHz := 60, ips := 60 }
    s.run = .waitKey ∧ s.keys = 0x0000#16 ∧ s.tdiv = 0 ∧ 60 ≤ s.cfg.clkHz := by decide
theorem witness_StoreDecimalDigits : (indexed 0x0FFD#16).i.toNat + 2 ≤ 4095 ∧ 4095 < (indexed 0x0FFE#16).i.toNat + 2 := by decide
theorem witness_StoreRegisters : (indexed 0x0FF0#16).i.toNat + (0xF#4).toNat ≤ 4095 ∧ 4095 < (indexed 0x0FF1#16).i.toNat + (0xF#4).toNat := by
  decide
theorem witness_LoadRegisters : (indexed 0x0FFF#16).i.toNat + (0x0#4).toNat ≤ 4095 ∧ 4095 < (indexed 0x1000#16).i.toNat + (0x0#4).toNat := by
  decide
theorem witness_StoreThenLoadRegisters : (indexed 0x0FF0#16).cfg.qIncI = false ∧ (indexed 0x0FF0#16).i.toNat + (0xF#4).toNat ≤ 4095
    ∧ (withCfg (indexed 0x0FE0#16) { Config.standard with qIncI := true }).cfg.qIncI = true
    ∧ (indexed 0x0FE0#16).i.toNat + 2 * ((0xF#4).toNat + 1) ≤ 4096 := by decide

end Sys2Proof.Tests
end

section
/-! Proofs for the family 00_scope.md: what a step runs (R16), and which agents change `keys` and the straps (R15, R37, R43). -/

namespace Sys2Proof.Machine

variable {s t u : State} {i : Instr}

/-! ### One step, from the script to the instruction -/

/-- With the empty script, a machine that is not halted takes the Engine's step. -/
theorem step_of_script_nil (hs : s.script = []) (hr : s.run ≠ .halted) : step s = engineStep s := by
  simp [step, hs, hr]

/-- The script's next agent step is taken with the rest of the script. -/
theorem step_of_script_cons {a : AgentStep} {rest : List AgentStep} (hs : s.script = a :: rest) :
    step s = perform a { s with script := rest } := by
  simp [step, hs]

/-- While running, the Engine's step is an `Exec`. -/
theorem engineStep_of_running (hr : s.run = .running) : engineStep s = execStep s := by
  simp [engineStep, hr]

/-- An `Exec` step whose fetch and decode succeed is the instruction's effect. -/
theorem execStep_of_decode {op : Word} (hf : fetch s = .ok op) (hd : decode op = .ok i) : execStep s = exec i s := by
  simp [execStep, hf, hd]

/-- Two bytes are an instruction exactly when their big-endian word is. -/
theorem decodeBytes_pair_iff {hi lo : Byte} :
    decodeBytes [hi, lo] = .ok (i, []) ↔ decode (wordOfBytes hi lo) = .ok i := by
  rw [decodeBytes]
  cases decode (wordOfBytes hi lo) <;> simp

theorem State.bytesFrom_two (s : State) (a : Nat) : s.bytesFrom a 2 = [s.byteAt a, s.byteAt (a + 1)] := rfl

/-- R16: the running Engine's step is the effect of the instruction that the two bytes at `PC` decode to. -/
theorem engineStep_eq_exec (hr : s.run = .running) (hpc : s.pc.toNat ≤ 4094)
    (hd : decodeBytes (s.bytesFrom s.pc.toNat 2) = .ok (i, [])) : engineStep s = exec i s := by
  rw [State.bytesFrom_two, decodeBytes_pair_iff] at hd
  rw [engineStep_of_running hr]
  exact execStep_of_decode ((fetch_ok_iff _).2 ⟨hpc, rfl⟩) hd

/-- Settles O7: the script picks the Engine's step, and fetch and decode do not read the script. -/
theorem stepRunsDecodedInstruction : Obligations.StepRunsDecodedInstruction := by
  intro s i hr hpc hd
  refine ⟨fun hs => ?_, fun rest hs => ?_⟩
  · rw [step_of_script_nil hs (by simp [hr])]
    exact engineStep_eq_exec hr hpc hd
  · rw [step_of_script_cons hs]
    exact engineStep_eq_exec (s := { s with script := rest }) hr hpc hd

/-! ### What the agents leave to the outside -/

/-- What a return can do: the stack underflow, or a jump to the entry it pops. -/
theorem execRet_cases (h : execRet s = .next t) :
    (s.stack = [] ∧ t = raise .stackUnderflow (encode .ret) .none 0 s) ∨
    (∃ w, s.stack.getLast? = some w ∧ t = s.dropTop.jumpTo w) := by
  unfold execRet at h
  split at h
  · next hl => exact .inl ⟨List.getLast?_eq_none_iff.1 hl, by cases h; rfl⟩
  · next w hl => exact .inr ⟨w, hl, by cases h; rfl⟩

/-- What a call can do: the stack overflow, or a jump with the return address pushed. -/
theorem execCall_cases {nnn : Imm12} (h : execCall nnn s = .next t) :
    (s.sp = s.cfg.stackDepth ∧ t = raise .stackOverflow (encode (.call nnn)) .none s.cfg.stackDepth s) ∨
    (s.sp ≠ s.cfg.stackDepth ∧ t = (s.push (s.pc + 2#16)).jumpTo (zext16 nnn)) := by
  unfold execCall at h
  split at h
  · next hf => exact .inl ⟨hf, by cases h; rfl⟩
  · next hf => exact .inr ⟨hf, by cases h; rfl⟩

/-- What the tick half of a clock edge can do: move the accumulator, and tick when the edge is a timer event. -/
theorem edgeTick_cases (s : State) :
    ((divide s.cfg.clkHz 60 s.tdiv).2 = true ∧
      edgeTick s = tick { s with tdiv := (divide s.cfg.clkHz 60 s.tdiv).1 }) ∨
    ((divide s.cfg.clkHz 60 s.tdiv).2 = false ∧
      edgeTick s = { s with tdiv := (divide s.cfg.clkHz 60 s.tdiv).1 }) := by
  unfold edgeTick
  cases hd : (divide s.cfg.clkHz 60 s.tdiv).2 <;> simp [hd]

/-- What the instruction half of a clock edge can do: move the accumulator, and `Exec` when the edge is an instruction event
of a running machine. -/
theorem edgeExec_cases (h : edgeExec s = .next t) :
    ((divide s.cfg.clkHz s.cfg.ips s.idiv).2 = true ∧ s.run = .running ∧
      execStep { s with idiv := (divide s.cfg.clkHz s.cfg.ips s.idiv).1 } = .next t) ∨
    (¬ ((divide s.cfg.clkHz s.cfg.ips s.idiv).2 = true ∧ s.run = .running) ∧
      t = { s with idiv := (divide s.cfg.clkHz s.cfg.ips s.idiv).1 }) := by
  simp only [edgeExec] at h
  split at h
  · next he => exact .inl ⟨he.1, he.2, h⟩
  · next he => exact .inr ⟨he, by cases h; rfl⟩

/-- The state that no instruction writes: the keypad snapshot, the straps, the divider's accumulators and the script. -/
def State.beyondExec (s : State) : Word × Config × Nat × Nat × List AgentStep :=
  (s.keys, s.cfg, s.tdiv, s.idiv, s.script)

/-- A range-checked instruction writes none of it when its effect writes none. -/
theorem checked_beyondExec {w : Word} {op : FaultOp} {n : Nat} (h : checked s w op n u = .next t)
    (hu : u.beyondExec = s.beyondExec) : t.beyondExec = s.beyondExec := by
  obtain ⟨-, rfl⟩ | ⟨-, rfl⟩ := checked_cases h
  · rfl
  · exact hu

/-- No instruction's effect, a fault included, writes what lies beyond it. -/
theorem exec_beyondExec (h : exec i s = .next t) : t.beyondExec = s.beyondExec := by
  cases i with
  | ret => obtain ⟨-, rfl⟩ | ⟨w, -, rfl⟩ := execRet_cases h <;> rfl
  | call nnn => obtain ⟨-, rfl⟩ | ⟨-, rfl⟩ := execCall_cases h <;> rfl
  | drw x y n => exact checked_beyondExec h rfl
  | ldB x => exact checked_beyondExec h rfl
  | stRegs x => exact checked_beyondExec h (by rw [storeRegs_rest]; simp [State.beyondExec])
  | ldRegs x => exact checked_beyondExec h (by rw [loadRegs_rest]; simp [State.beyondExec])
  | rnd x nn => cases h; simp [State.beyondExec]
  | _ => cases h; rfl

/-- What only `SetKeys` and `Reset` write: the keypad snapshot and the straps. -/
def State.fromOutside (s : State) : Word × Config := (s.keys, s.cfg)

theorem exec_fromOutside (h : exec i s = .next t) : t.fromOutside = s.fromOutside :=
  congrArg (fun p => (p.1, p.2.1)) (exec_beyondExec h)

@[simp] theorem wake_fromOutside (s : State) : (wake s).fromOutside = s.fromOutside := by
  obtain ⟨k, -, -, h⟩ | ⟨-, h⟩ := wake_cases s <;> simp [h, State.fromOutside]

@[simp] theorem tick_fromOutside (s : State) : (tick s).fromOutside = s.fromOutside := by
  simp [State.fromOutside]

@[simp] theorem edgeTick_fromOutside (s : State) : (edgeTick s).fromOutside = s.fromOutside := by
  obtain ⟨-, h⟩ | ⟨-, h⟩ := edgeTick_cases s <;> rw [h]
  · exact tick_fromOutside _
  · rfl

theorem execStep_fromOutside (h : execStep s = .next t) : t.fromOutside = s.fromOutside := by
  obtain ⟨a, -, rfl⟩ | ⟨op, e, -, -, rfl⟩ | ⟨op, i, -, -, hi⟩ := execStep_cases h
  · rfl
  · rfl
  · exact exec_fromOutside hi

theorem engineStep_fromOutside (h : engineStep s = .next t) : t.fromOutside = s.fromOutside := by
  obtain ⟨-, he⟩ | ⟨-, rfl⟩ | ⟨-, rfl⟩ := engineStep_cases h
  · exact execStep_fromOutside he
  · exact wake_fromOutside s
  · rfl

theorem edgeExec_fromOutside (h : edgeExec s = .next t) : t.fromOutside = s.fromOutside := by
  obtain ⟨-, -, he⟩ | ⟨-, rfl⟩ := edgeExec_cases h
  · exact (execStep_fromOutside he).trans rfl
  · rfl

theorem clockEdge_fromOutside (h : clockEdge s = .next t) : t.fromOutside = s.fromOutside := by
  obtain ⟨-, rfl⟩ | ⟨-, u, hu, rfl⟩ := clockEdge_cases h
  · rfl
  · calc (wake u).fromOutside
      _ = u.fromOutside := wake_fromOutside u
      _ = (edgeTick s).fromOutside := edgeExec_fromOutside hu
      _ = s.fromOutside := edgeTick_fromOutside s

/-- R48: `Reset` does not write the keypad snapshot, whether or not the load check fails. -/
@[simp] theorem resetTo_keys (c : Config) (image : List Byte) (s : State) : (resetTo c image s).keys = s.keys := by
  obtain ⟨-, h⟩ | ⟨-, h⟩ := resetTo_cases c image s <;> simp [h, initial]

/-- R37: of the agents' steps, only `SetKeys` writes the keypad snapshot. -/
theorem perform_keys {a : AgentStep} (h : perform a s = .next t) (ha : ∀ k, a ≠ .setKeys k) : t.keys = s.keys := by
  cases a with
  | engine => exact congrArg Prod.fst (engineStep_fromOutside h)
  | tick => cases h; exact tick_keys s
  | setKeys k => exact absurd rfl (ha k)
  | take => cases h; rfl
  | reset c image => cases h; exact resetTo_keys c image s
  | clockEdge => exact congrArg Prod.fst (clockEdge_fromOutside h)

/-- R43: of the agents' steps, only `Reset` writes the straps. -/
theorem perform_cfg {a : AgentStep} (h : perform a s = .next t) (ha : ∀ c image, a ≠ .reset c image) : t.cfg = s.cfg := by
  cases a with
  | engine => exact congrArg Prod.snd (engineStep_fromOutside h)
  | tick => cases h; exact tick_cfg s
  | setKeys k => cases h; rfl
  | take => cases h; rfl
  | reset c image => exact absurd rfl (ha c image)
  | clockEdge => exact congrArg Prod.snd (clockEdge_fromOutside h)

/-- Settles O24: the step is the script's next agent's or, with the empty script, the Engine's, which writes neither. -/
theorem keysAndStrapsChangeFromOutsideOnly : Obligations.KeysAndStrapsChangeFromOutsideOnly := by
  refine ⟨fun k s => rfl, fun s t h => ?_⟩
  obtain ⟨a, rest, hs, ha⟩ | ⟨-, -, he⟩ := step_cases h
  · have hkeys := perform_keys ha
    have hcfg := perform_cfg ha
    rw [hs]
    exact ⟨fun hk => hkeys fun k e => hk k (congrArg some e),
      fun hc => hcfg fun c image e => hc c image (congrArg some e)⟩
  · have hout := engineStep_fromOutside he
    exact ⟨fun _ => congrArg Prod.fst hout, fun _ => congrArg Prod.snd hout⟩

end Sys2Proof.Machine
end

section
/-! Proofs for the family 10_state.md: reset (R48), the invariant (R47), and which instruction writes which state (R21 to R43). -/

namespace Sys2Proof.Machine

variable {s t u : State} {i : Instr}

/-! ### What the longer instructions can do -/

/-- A draw moves the random input and nothing else. -/
theorem State.consumeRnd_rest (s : State) :
    s.consumeRnd = { s with rnd := s.consumeRnd.rnd, draws := s.consumeRnd.draws } := by
  unfold State.consumeRnd
  split <;> rfl

/-- What a bulk store leaves: the bytes stored, the optional index update and the next `PC`. -/
theorem storeEffect_rest (s : State) (n : Nat) : (incIndex (storeRegs s n) n).advance =
    { s with mem := (storeRegs s n).mem, i := (incIndex s n).i, pc := s.pc + 2#16 } := by
  rw [storeRegs_rest]
  cases hq : s.cfg.qIncI <;> simp [incIndex, State.advance, hq]

/-- What a bulk load leaves: the registers loaded, the optional index update and the next `PC`. -/
theorem loadEffect_rest (s : State) (n : Nat) : (incIndex (loadRegs s n) n).advance =
    { s with v := (loadRegs s n).v, i := (incIndex s n).i, pc := s.pc + 2#16 } := by
  rw [loadRegs_rest]
  cases hq : s.cfg.qIncI <;> simp [incIndex, State.advance, hq]

/-! ### The invariant -/

/-- What the invariant reads of a state. -/
def State.invFields (s : State) : Memory × Config × List Word × Word × RunState × FaultKind × Frame × Frame × Bool :=
  (s.mem, s.cfg, s.stack, s.pc, s.run, s.faultKind, s.disp, s.fcFrame, s.fcPending)

namespace State.Inv

/-- The invariant does not depend on what it does not read. -/
theorem congr (h : s.Inv) (he : t.invFields = s.invFields) : t.Inv := by
  obtain ⟨v, i, pc, dt, st, stack, mem, disp, keys, rnd, draws, run, waitX, fcFrame, fcPending, faultKind⟩ := t
  simp only [State.invFields, Prod.mk.injEq] at he
  obtain ⟨rfl, rfl, rfl, rfl, rfl, rfl, rfl, rfl, rfl⟩ := he
  exact { h with }

/-- R47: a machine that is not halted has taken no fault. -/
theorem faultKind_eq_none (h : s.Inv) (hr : s.run ≠ .halted) : s.faultKind = .none :=
  not_not.1 (mt h.haltedIff.2 hr)

/-- `PC` may go to any address that R47 allows. -/
theorem jumpTo {w : Word} (h : s.Inv) (hw : w.toNat ≤ 0x10FE) : (s.jumpTo w).Inv :=
  { h with pcRange := fun _ => hw }

/-- An instruction is fetched at 0xFFE or below, so `PC + 2` is at most 0x1000. -/
theorem advance (h : s.Inv) (hpc : s.pc.toNat ≤ 4094) : s.advance.Inv :=
  h.jumpTo (w := s.pc + 2#16) (by bv_omega)

/-- A skip of an instruction fetched at 0xFFE or below reaches 0x1002 at most. -/
theorem skipIf (h : s.Inv) (hpc : s.pc.toNat ≤ 4094) (c : Bool) : (s.skipIf c).Inv :=
  h.jumpTo (w := if c then s.pc + 4#16 else s.pc + 2#16) (by split <;> bv_omega)

/-- Memory may become any canonical list. -/
theorem withMem {m : Memory} (h : s.Inv) (hm : m.wf s.cfg.fontBase.toNat) : State.Inv { s with mem := m } :=
  { h with memory := hm }

/-- Between running and waiting the run state changes freely. -/
theorem withRun {r : RunState} (h : s.Inv) (hs : s.run ≠ .halted) (hr : r ≠ .halted) : State.Inv { s with run := r } :=
  { h with haltedIff := iff_of_false hr (not_not.2 (h.faultKind_eq_none hs)) }

/-- A new picture is published as it is drawn. -/
theorem publishDisp (h : s.Inv) (f : Frame) : (s.setDisp f).publish.Inv :=
  { h with published := fun _ => rfl }

/-- A push below the capacity, of an address that R47 allows. -/
theorem push {w : Word} (h : s.Inv) (hsp : s.sp ≠ s.cfg.stackDepth) (hw : w.toNat ≤ 0x1000) : (s.push w).Inv :=
  { h with
    stackBound := by
      have := h.stackBound
      simp only [State.sp, State.push_stack, State.push_cfg, List.length_append, List.length_singleton] at *
      omega
    stackEntries := by
      intro a ha
      obtain ha | ha := List.mem_append.1 ha
      · exact h.stackEntries a ha
      · exact List.mem_singleton.1 ha ▸ hw }

/-- R32: a pop takes one entry and leaves the others. -/
theorem dropTop (h : s.Inv) : s.dropTop.Inv :=
  { h with
    stackBound := (List.dropLast_sublist _).length_le.trans h.stackBound
    stackEntries := fun w hw => h.stackEntries w (List.mem_of_mem_dropLast hw) }

/-- R228: a fault that an Engine step takes halts the machine and leaves the rest as it is. -/
theorem raise {kind : FaultKind} {w : Word} {op : FaultOp} {a : Nat} (h : s.Inv) (hr : s.run = .running)
    (hk : kind ≠ .none) : (raise kind w op a s).Inv :=
  have hn : s.faultKind ≠ .loadFault := by simp [h.faultKind_eq_none (by simp [hr])]
  { h with
    pcRange := fun _ => h.pcRange hn
    haltedIff := iff_of_true rfl hk
    configLegal := fun _ => h.configLegal hn }

/-- A range-checked instruction keeps the invariant when its effect does. -/
theorem checked {w : Word} {op : FaultOp} {n : Nat} (h : s.Inv) (hr : s.run = .running)
    (hc : checked s w op n u = .next t) (hu : u.Inv) : t.Inv := by
  obtain ⟨-, rfl⟩ | ⟨-, rfl⟩ := checked_cases hc
  · exact h.raise hr nofun
  · exact hu

end State.Inv

/-- R121: a return keeps the invariant, since the entry it pops is a return address. -/
theorem execRet_inv (h : s.Inv) (hr : s.run = .running) (he : execRet s = .next t) : t.Inv := by
  obtain ⟨-, rfl⟩ | ⟨w, hw, rfl⟩ := execRet_cases he
  · exact h.raise hr nofun
  · have := h.stackEntries w (List.mem_of_getLast? hw)
    exact h.dropTop.jumpTo (by omega)

/-- R123: a call keeps the invariant, since it pushes `PC + 2` of a fetched instruction. -/
theorem execCall_inv {nnn : Imm12} (h : s.Inv) (hr : s.run = .running) (hpc : s.pc.toNat ≤ 4094)
    (he : execCall nnn s = .next t) : t.Inv := by
  obtain ⟨-, rfl⟩ | ⟨hsp, rfl⟩ := execCall_cases he
  · exact h.raise hr nofun
  · exact (h.push hsp (by bv_omega)).jumpTo (by bv_omega)

/-- The effect of every instruction keeps the invariant in a machine that has fetched it. Most only advance `PC` and write what
the invariant does not read. -/
theorem exec_inv (h : s.Inv) (hr : s.run = .running) (hpc : s.pc.toNat ≤ 4094) (he : exec i s = .next t) : t.Inv := by
  cases i with
  | cls => cases he; exact (h.publishDisp _).advance hpc
  | ret => exact execRet_inv h hr he
  | call nnn => exact execCall_inv h hr hpc he
  | jp nnn => cases he; exact h.jumpTo (by bv_omega)
  | jpV0 nnn => cases he; exact h.jumpTo (by bv_omega)
  | seImm | sneImm | seReg | sneReg | skp | sknp => cases he; exact h.skipIf hpc _
  | rnd x nn =>
    cases he
    rw [State.consumeRnd_rest]
    exact (h.advance hpc).congr rfl
  | drw x y n => exact h.checked hr he (((h.publishDisp (blit s.disp (drwPixels s x y n)).1).advance hpc).congr rfl)
  | ldVxK x =>
    cases he
    exact ((h.advance hpc).congr (t := { s.advance with waitX := x }) rfl).withRun (by simp [hr]) nofun
  | ldB x => exact h.checked hr he ((h.withMem (storeDigits_wf _ h.memory)).advance hpc)
  | stRegs x =>
    refine h.checked hr he ?_
    rw [storeEffect_rest]
    have hm := storeRegs_wf (x.toNat + 1) h.memory
    rw [storeRegs_rest] at hm
    exact ((h.withMem hm).advance hpc).congr rfl
  | ldRegs x =>
    refine h.checked hr he ?_
    rw [loadEffect_rest]
    exact (h.advance hpc).congr rfl
  | _ => cases he; exact (h.advance hpc).congr rfl

/-- `Exec` keeps the invariant: both failures before the instruction's effect are faults. -/
theorem execStep_inv (h : s.Inv) (hr : s.run = .running) (he : execStep s = .next t) : t.Inv := by
  obtain ⟨a, -, rfl⟩ | ⟨op, e, -, -, rfl⟩ | ⟨op, i, hf, -, hi⟩ := execStep_cases he
  · exact h.raise hr nofun
  · exact h.raise hr nofun
  · exact exec_inv h hr ((fetch_ok_iff op).1 hf).1 hi

/-- R194: `Wake` writes a register and resumes a machine that was waiting, so not halted. -/
theorem wake_inv (h : s.Inv) : (wake s).Inv := by
  obtain ⟨k, hr, -, hw⟩ | ⟨-, hw⟩ := wake_cases s <;> rw [hw]
  · exact (h.congr (t := s.setV s.waitX (BitVec.ofNat 8 k)) rfl).withRun (by simp [hr]) nofun
  · exact h

theorem engineStep_inv (h : s.Inv) (he : engineStep s = .next t) : t.Inv := by
  obtain ⟨hr, he⟩ | ⟨-, rfl⟩ | ⟨-, rfl⟩ := engineStep_cases he
  · exact execStep_inv h hr he
  · exact wake_inv h
  · exact h

theorem tick_inv (h : s.Inv) : (tick s).Inv := h.congr (by simp [State.invFields])

theorem edgeTick_inv (h : s.Inv) : (edgeTick s).Inv := by
  obtain ⟨-, he⟩ | ⟨-, he⟩ := edgeTick_cases s <;> rw [he]
  · exact tick_inv (h.congr rfl)
  · exact h.congr rfl

theorem edgeExec_inv (h : s.Inv) (he : edgeExec s = .next t) : t.Inv := by
  obtain ⟨-, hr, he⟩ | ⟨-, rfl⟩ := edgeExec_cases he
  · have hu : State.Inv { s with idiv := (divide s.cfg.clkHz s.cfg.ips s.idiv).1 } := h.congr rfl
    exact execStep_inv hu hr he
  · exact h.congr rfl

theorem clockEdge_inv (h : s.Inv) (he : clockEdge s = .next t) : t.Inv := by
  obtain ⟨-, rfl⟩ | ⟨-, u, hu, rfl⟩ := clockEdge_cases he
  · exact h
  · exact wake_inv (edgeExec_inv (edgeTick_inv h) hu)

/-- R8: a legal `LOAD_ADDR` is 0x200 or 0x600. -/
theorem loadAddr_of_legal {c : Config} (h : c.legal = true) : c.loadAddr = 0x200#16 ∨ c.loadAddr = 0x600#16 := by
  simp only [Config.legal, Bool.and_eq_true, Bool.or_eq_true, beq_iff_eq] at h
  exact h.1.1

/-- After `Reset` the invariant holds whatever the state before, the load fault included. -/
theorem resetTo_inv (c : Config) (image : List Byte) (s : State) : (resetTo c image s).Inv := by
  obtain ⟨⟨hl, -⟩, h⟩ | ⟨-, h⟩ := resetTo_cases c image s <;> rw [h]
  · exact {
      memory := Memory.wf_place _ Memory.wf_nil
      stackBound := Nat.zero_le _
      stackEntries := nofun
      pcRange := fun _ => by
        show c.loadAddr.toNat ≤ 0x10FE
        obtain ha | ha := loadAddr_of_legal hl <;> simp [ha]
      haltedIff := iff_of_false nofun (not_not.2 rfl)
      published := nofun
      configLegal := fun _ => hl }
  · exact {
      memory := Memory.wf_nil
      stackBound := Nat.zero_le _
      stackEntries := nofun
      pcRange := fun hk => absurd rfl hk
      haltedIff := iff_of_true rfl nofun
      published := nofun
      configLegal := fun hk => absurd rfl hk }

/-- Every agent's step keeps the invariant. -/
theorem perform_inv {a : AgentStep} (h : s.Inv) (ha : perform a s = .next t) : t.Inv := by
  cases a with
  | engine => exact engineStep_inv h ha
  | tick => cases ha; exact tick_inv h
  | setKeys k => cases ha; exact h.congr rfl
  | take => cases ha; exact { h with published := nofun }
  | reset c image => cases ha; exact resetTo_inv c image s
  | clockEdge => exact clockEdge_inv h ha

/-- Settles O17: a step is one agent's, and each agent's step keeps the invariant. -/
theorem invariantKeptByEveryStep : Obligations.InvariantKeptByEveryStep := by
  intro s t h hs
  obtain ⟨a, rest, -, ha⟩ | ⟨-, -, he⟩ := step_cases hs
  · exact perform_inv (s := { s with script := rest }) (h.congr rfl) ha
  · exact engineStep_inv h he

/-- Settles O16: `State.reset` is what a `Reset` leaves. -/
theorem invariantHoldsAtReset : Obligations.InvariantHoldsAtReset := by
  unfold Obligations.InvariantHoldsAtReset
  rw [← reset_eq_resetTo]
  exact resetTo_inv _ _ _

/-! ### The values after a reset -/

/-- R48, R271 to R273: the reset values hold of every configuration and every image inside memory. -/
theorem initial_hasResetValues {c : Config} {image : List Byte} (s : State) (h : c.loadAddr.toNat + image.length ≤ 4096) :
    HasResetValues c image s (initial c image s) where
  v r := by simp [State.getV, initial]
  i := rfl
  pc := rfl
  timers := ⟨rfl, rfl⟩
  sp := rfl
  mem a _ := Memory.read_place image h
  disp := pixel_blank
  frameSlot := ⟨fun _ _ => pixel_blank _ _, rfl⟩
  waitX := rfl
  dividers := ⟨rfl, rfl⟩
  cfg := rfl
  inputs := ⟨rfl, rfl⟩

/-- A reset with a legal configuration and an image that fits passes the load check. -/
theorem resetTo_of_legal {c : Config} {image : List Byte} (s : State) (hc : c.legal = true)
    (hi : c.loadAddr.toNat + image.length ≤ 4096) : resetTo c image s = initial c image s := by
  simp [resetTo, hc, Config.imageFits, hi]

/-- Settles O13: the load check passes, and `initial` holds R48's values. -/
theorem resetWritesEveryState : Obligations.ResetWritesEveryState := by
  intro c image s hc hi
  exact ⟨initial c image s, congrArg _ (resetTo_of_legal s hc hi), initial_hasResetValues s hi, rfl, rfl, rfl, rfl, rfl, rfl⟩

/-- Settles O15: the fields are R48's values, and memory at its reset contents shows the font. -/
theorem resetStateValues : Obligations.ResetStateValues := by
  have hv : ∀ r, State.reset.getV r = 0x00#8 := fun r => by simp [State.getV, State.reset]
  exact ⟨rfl, rfl, hv, rfl, rfl, rfl, rfl, rfl, rfl, rfl, by decide, by decide, by decide, by decide⟩

/-! ### What instructions leave alone -/

/-- R130: a skip goes on at `PC + 2` or at `PC + 4`. -/
theorem State.skipIf_pc_or (s : State) (c : Bool) : (s.skipIf c).pc = s.pc + 2#16 ∨ (s.skipIf c).pc = s.pc + 4#16 := by
  cases c
  · exact .inl rfl
  · exact .inr rfl

/-- A range-checked instruction whose range lies inside memory has its effect. -/
theorem eq_of_checked {w : Word} {op : FaultOp} {n : Nat} (h : checked s w op n u = .next t)
    (hn : ¬ (0 < n ∧ 4095 < s.i.toNat + n - 1)) : t = u := by
  obtain ⟨hr, -⟩ | ⟨-, rfl⟩ := checked_cases h
  · exact absurd ((outOfRange_iff s n).1 hr) hn
  · rfl

/-- Settles O18: an instruction that is no transfer ends in a skip or an advance, and a range-checked one has its effect. -/
theorem programCounterAdvance : Obligations.ProgramCounterAdvance := by
  intro i s t h hf
  cases i with
  | ret | call | jp | jpV0 => exact ⟨nofun, nofun⟩
  | seImm | sneImm | seReg | sneReg | skp | sknp => cases h; exact ⟨fun _ => s.skipIf_pc_or _, nofun⟩
  | drw | ldB => obtain rfl := eq_of_checked h hf; exact ⟨nofun, fun _ _ => rfl⟩
  | stRegs x =>
    obtain rfl := eq_of_checked h hf
    exact ⟨nofun, fun _ _ => congrArg State.pc (storeEffect_rest s _)⟩
  | ldRegs x =>
    obtain rfl := eq_of_checked h hf
    exact ⟨nofun, fun _ _ => congrArg State.pc (loadEffect_rest s _)⟩
  | rnd x nn => cases h; exact ⟨nofun, fun _ _ => congrArg (· + 2#16) s.consumeRnd_pc⟩
  | _ => cases h; exact ⟨nofun, fun _ _ => rfl⟩

/-- A bulk load leaves the registers above its last one alone. -/
theorem loadRegs_getV_of_lt {x r : Reg} (h : x.toNat < r.toNat) : (loadRegs s (x.toNat + 1)).getV r = s.getV r := by
  rw [loadRegs_getV _ _ _ x.isLt, if_neg (by omega)]

/-- A flag write leaves every register but its destination and `VF` alone. -/
theorem writeWithFlag_getV_of_ne {x r : Reg} (b : Byte) (c : Bool) (hx : r ≠ x) (hf : r ≠ vf) :
    (writeWithFlag s x b c).getV r = s.getV r := by
  rw [writeWithFlag_getV, if_neg hf, if_neg hx]

/-- Settles O19: each instruction's effect writes its destinations only, and a fault writes no register. -/
theorem registersChangeOnlyWhereNamed : Obligations.RegistersChangeOnlyWhereNamed := by
  intro i s t r h hw
  cases i with
  | ret => obtain ⟨-, rfl⟩ | ⟨w, -, rfl⟩ := execRet_cases h <;> rfl
  | call nnn => obtain ⟨-, rfl⟩ | ⟨-, rfl⟩ := execCall_cases h <;> rfl
  | ldImm | addImm | ldReg | orReg | andReg | xorReg | ldVxDt =>
    cases h
    exact s.getV_setV_of_ne _ (beq_eq_false_iff_ne.1 hw)
  | addReg | sub | shr | subn | shl =>
    cases h
    obtain ⟨hx, hf⟩ := Bool.or_eq_false_iff.1 hw
    exact writeWithFlag_getV_of_ne _ _ (beq_eq_false_iff_ne.1 hx) (beq_eq_false_iff_ne.1 hf)
  | rnd x nn =>
    cases h
    exact (s.consumeRnd.getV_setV_of_ne _ (beq_eq_false_iff_ne.1 hw)).trans (s.consumeRnd_getV r)
  | drw x y n =>
    obtain ⟨-, rfl⟩ | ⟨-, rfl⟩ := checked_cases h
    · rfl
    · exact State.getV_setV_of_ne _ _ (beq_eq_false_iff_ne.1 hw)
  | ldB x => obtain ⟨-, rfl⟩ | ⟨-, rfl⟩ := checked_cases h <;> rfl
  | stRegs x =>
    obtain ⟨-, rfl⟩ | ⟨-, rfl⟩ := checked_cases h
    · rfl
    · rw [storeEffect_rest]; rfl
  | ldRegs x =>
    obtain ⟨-, rfl⟩ | ⟨-, rfl⟩ := checked_cases h
    · rfl
    · rw [loadEffect_rest]
      exact loadRegs_getV_of_lt (not_le.1 (of_decide_eq_false hw))
  | _ => cases h; rfl

/-- Without `Q_INC_I` a bulk transfer leaves `I` alone. -/
theorem incIndex_i_of_not_qIncI (n : Nat) (h : s.cfg.qIncI = false) : (incIndex s n).i = s.i := by
  simp [incIndex, h]

/-- Settles O20: a fault writes none of these fields, and an effect writes the one its instruction owns; a bulk transfer writes `I`
only under `Q_INC_I`. -/
theorem eachStateHasItsWriters : Obligations.EachStateHasItsWriters := by
  intro i s t h
  cases i with
  | ret => obtain ⟨-, rfl⟩ | ⟨w, -, rfl⟩ := execRet_cases h <;> simp
  | call nnn => obtain ⟨-, rfl⟩ | ⟨-, rfl⟩ := execCall_cases h <;> simp
  | drw | ldB => obtain ⟨-, rfl⟩ | ⟨-, rfl⟩ := checked_cases h <;> simp [storeDigits]
  | stRegs x =>
    obtain ⟨-, rfl⟩ | ⟨-, rfl⟩ := checked_cases h
    · simp
    · rw [storeEffect_rest]
      simpa [writesIndex] using incIndex_i_of_not_qIncI _
  | ldRegs x =>
    obtain ⟨-, rfl⟩ | ⟨-, rfl⟩ := checked_cases h
    · simp
    · rw [loadEffect_rest]
      simpa [writesIndex] using incIndex_i_of_not_qIncI _
  | addReg | sub | shr | subn | shl => cases h; simp [writeWithFlag]
  | _ => cases h; simp [writesIndex]

end Sys2Proof.Machine
end

section
/-! Proofs for the family 20_memory.md: which bytes of memory an instruction can change (R63, R67). -/

namespace Sys2Proof.Machine

variable {s t u : State} {a : Nat}

/-- A range-checked instruction leaves a byte alone when its effect does: the fault it may take instead writes no memory. -/
theorem checked_byteAt {w : Word} {op : FaultOp} {n : Nat} (h : checked s w op n u = .next t)
    (hu : u.byteAt a = s.byteAt a) : t.byteAt a = s.byteAt a := by
  obtain ⟨-, rfl⟩ | ⟨-, rfl⟩ := checked_cases h
  · exact raise_byteAt ..
  · exact hu

/-- Settles O21: a store writes its own range only, whatever `I`; every other effect, and every fault, leaves memory alone. -/
theorem onlyStoresChangeMemory : Obligations.OnlyStoresChangeMemory := by
  intro i s t a h ha
  cases i with
  | ldB x => exact checked_byteAt h (storeDigits_byteAt_of_ne s _ a ha)
  | stRegs x => exact checked_byteAt h ((incIndex_byteAt ..).trans (storeRegs_byteAt_of_ne s _ a ha))
  | ldRegs x => exact checked_byteAt h (by rw [loadEffect_rest]; rfl)
  | drw x y n => exact checked_byteAt h rfl
  | ret => obtain ⟨-, rfl⟩ | ⟨w, -, rfl⟩ := execRet_cases h <;> rfl
  | call nnn => obtain ⟨-, rfl⟩ | ⟨-, rfl⟩ := execCall_cases h <;> rfl
  | rnd x nn => cases h; exact s.consumeRnd_byteAt a
  | _ => cases h; rfl

end Sys2Proof.Machine
end

section
/-! Proofs for the family 30_encoding.md: the decoder against the encoder (R110), the opcode table (R100, R101) and the illegal words
(R104); what the fetch reads and when it faults (R90). -/

namespace Sys2Proof.Machine

variable {op : Word} {i : Instr} {r q : OpcodeRow} {s : State}

/-! ### Decoder and encoder -/

/-- R110: the decoder reads each field of an instruction's word where the encoder put it (the `field…` lemmas of Laws/Fields);
the cases are the shapes of R93 and the dispatches of R95. -/
theorem decode_encode (i : Instr) : decode (encode i) = .ok i := by
  cases i with
  | cls | ret => rfl
  | jp | call | ldI | jpV0 => simp [encode, decode]
  | seImm | sneImm | ldImm | addImm | rnd => simp [encode, decode]
  | seReg | sneReg | drw => simp [encode, decode]
  | ldReg | orReg | andReg | xorReg | addReg | sub | shr | subn | shl => simp [encode, decode, decodeAlu]
  | skp | sknp => simp [encode, decode, decodeKey]
  | ldVxDt | ldVxK | ldDtVx | ldStVx | addI | ldF | ldB | stRegs | ldRegs => simp [encode, decode, decodeMisc]

/-- Settles O2: each of the encoder's shapes is read back field by field. -/
theorem decodeOfEncode : Obligations.DecodeOfEncode := decode_encode

/-! The word of each shape of R93, from the fields the decoder has compared. -/

theorem kNNN_eq_word {k : Nibble} (h0 : fieldN0 op = k) : k ++ fieldNNN op = op := by
  rw [← h0]; exact (word_eq_kNNN op).symm

theorem kXNN_eq_word {k : Nibble} {nn : Byte} (h0 : fieldN0 op = k) (hnn : fieldNN op = nn) : k ++ fieldX op ++ nn = op := by
  rw [← h0, ← hnn]; exact (word_eq_kXNN op).symm

theorem kXYm_eq_word {k m : Nibble} (h0 : fieldN0 op = k) (hm : fieldN op = m) : k ++ fieldX op ++ fieldY op ++ m = op := by
  rw [← h0, ← hm]; exact (word_eq_kXYm op).symm

/-- What a decoder may answer for a word: an instruction whose word it is, or an error for a word of R104's groups. -/
def IsDecodingOf (op : Word) : Except DecodeError Instr → Prop
  | .ok i => encode i = op
  | .error _ => illegalByGroup op

/-- The ALU group: the last nibbles it does not list are those of R104. -/
theorem decodeAlu_isDecoding (h0 : fieldN0 op = 0x8#4) : IsDecodingOf op (decodeAlu op) := by
  have hlast : ∀ n : Nibble, n ∉ [0x0#4, 0x1#4, 0x2#4, 0x3#4, 0x4#4, 0x5#4, 0x6#4, 0x7#4, 0xE#4] →
      n ∈ [0x8#4, 0x9#4, 0xA#4, 0xB#4, 0xC#4, 0xD#4, 0xF#4] := by decide
  unfold decodeAlu
  split
  case h_10 => exact .inr (.inr (.inl ⟨h0, hlast _ (by simp_all)⟩))
  all_goals exact kXYm_eq_word h0 ‹_›

/-- The key group. -/
theorem decodeKey_isDecoding (h0 : fieldN0 op = 0xE#4) : IsDecodingOf op (decodeKey op) := by
  unfold decodeKey
  split
  case h_3 => exact .inr (.inr (.inr (.inr (.inl ⟨h0, by simp_all⟩))))
  all_goals exact kXNN_eq_word h0 ‹_›

/-- The group `FX__`. -/
theorem decodeMisc_isDecoding (h0 : fieldN0 op = 0xF#4) : IsDecodingOf op (decodeMisc op) := by
  unfold decodeMisc
  split
  case h_10 => exact .inr (.inr (.inr (.inr (.inr ⟨h0, by simp_all⟩))))
  all_goals exact kXNN_eq_word h0 ‹_›

/-- R95: what `decode` answers, by the major opcode. -/
theorem decode_isDecoding (op : Word) : IsDecodingOf op (decode op) := by
  unfold decode
  split
  case h_1 h0 =>
    split
    · exact Eq.symm ‹_›
    split
    · exact Eq.symm ‹_›
    · exact .inl ⟨h0, ‹_›, ‹_›⟩
  case h_6 h0 =>
    split
    · exact kXYm_eq_word h0 ‹_›
    · exact .inr (.inl ⟨h0, ‹_›⟩)
  case h_9 h0 => exact decodeAlu_isDecoding h0
  case h_10 h0 =>
    split
    · exact kXYm_eq_word h0 ‹_›
    · exact .inr (.inr (.inr (.inl ⟨h0, ‹_›⟩)))
  case h_15 h0 => exact decodeKey_isDecoding h0
  case h_16 =>
    simp only [imp_false] at *
    exact decodeMisc_isDecoding (by bv_omega)
  case h_2 h0 | h_3 h0 | h_11 h0 | h_12 h0 => exact kNNN_eq_word h0
  case h_4 h0 | h_5 h0 | h_7 h0 | h_8 h0 | h_13 h0 => exact kXNN_eq_word h0 rfl
  case h_14 h0 => exact kXYm_eq_word h0 rfl

theorem encode_of_decode (h : decode op = .ok i) : encode i = op := by
  have ha := decode_isDecoding op
  rwa [h] at ha

theorem illegalByGroup_of_decode_error {e : DecodeError} (h : decode op = .error e) : illegalByGroup op := by
  have ha := decode_isDecoding op
  rwa [h] at ha

/-- Settles O3: each branch of the decoder compares or keeps every field of the word. -/
theorem encodeOfDecode : Obligations.EncodeOfDecode := fun _ _ => encode_of_decode

theorem bytesOfWord_eq (w : Word) :
    bytesOfWord w = (BitVec.ofNat 8 (w.toNat / 256), BitVec.ofNat 8 (w.toNat % 256)) := by
  ext1
  · exact BitVec.eq_of_toNat_eq (by simp [bytesOfWord, Nat.shiftRight_eq_div_pow])
  · exact BitVec.eq_of_toNat_eq (by simp [bytesOfWord])

theorem decodeBytes_encodeBytes (i : Instr) (rest : List Byte) : decodeBytes (encodeBytes i ++ rest) = .ok (i, rest) := by
  simp [decodeBytes, encodeBytes, wordOfBytes_bytesOfWord, decode_encode]

/-- Settles O4: the two bytes make up the word again, and the word decodes to its instruction. -/
theorem instructionIsItsTwoBytes : Obligations.InstructionIsItsTwoBytes := fun i rest =>
  ⟨decodeBytes_encodeBytes i rest, by rw [encodeBytes, bytesOfWord_eq]⟩

/-! ### The opcode table -/

theorem opcodeRow_matches_iff : r.matches op = true ↔ op &&& r.mask = r.pat := by
  simp [OpcodeRow.matches]

theorem pat_and_mask_eq (hr : r.matches op = true) (hq : q.matches op = true) : r.pat &&& q.mask = q.pat &&& r.mask := by
  rw [opcodeRow_matches_iff] at hr hq
  rw [← hr, ← hq, BitVec.and_assoc, BitVec.and_assoc, BitVec.and_comm r.mask]

/-- Settles O6: any two rows differ in a bit that both masks compare. -/
theorem opcodeRowsDisjoint : Obligations.OpcodeRowsDisjoint := by
  have hdiffer : opcodeTable.Pairwise fun r q => r.pat &&& q.mask ≠ q.pat &&& r.mask := by decide
  exact ⟨rfl, hdiffer.imp fun hne op ⟨hr, hq⟩ => hne (pat_and_mask_eq hr hq)⟩

/-- A field that the mask compares whole is, in every word the row matches, the pattern's. -/
theorem field_of_matches {lo len : Nat} (h : r.matches op = true) (hm : r.mask.extractLsb' lo len = BitVec.allOnes len) :
    op.extractLsb' lo len = r.pat.extractLsb' lo len := by
  rw [← opcodeRow_matches_iff.1 h, BitVec.extractLsb'_and, hm, BitVec.and_allOnes]

/-- Each row compares the fields that R104 looks at: the major opcode and, by it, the whole word, `N` or `NN`. -/
theorem opcodeTable_masks : ∀ r ∈ opcodeTable, fieldN0 r.mask = BitVec.allOnes 4
    ∧ (fieldN0 r.pat = 0x0#4 → r.mask = BitVec.allOnes 16)
    ∧ (fieldN0 r.pat ∈ [0x5#4, 0x8#4, 0x9#4] → fieldN r.mask = BitVec.allOnes 4)
    ∧ (fieldN0 r.pat ∈ [0xE#4, 0xF#4] → fieldNN r.mask = BitVec.allOnes 8) := by decide

/-- No pattern of the table, its operand fields 0, is an illegal word. -/
theorem opcodeTable_pat_legal : ∀ r ∈ opcodeTable, ¬ illegalByGroup r.pat := by
  unfold illegalByGroup
  decide

/-- R104's groups do not look at the fields that a row of the table leaves to operands. -/
theorem illegalByGroup_pat (hr : r ∈ opcodeTable) (h : r.matches op = true) (hop : illegalByGroup op) :
    illegalByGroup r.pat := by
  obtain ⟨hm0, hmWord, hmN, hmNN⟩ := opcodeTable_masks r hr
  have h0 : fieldN0 op = fieldN0 r.pat := field_of_matches h hm0
  have hWord (hk : fieldN0 r.pat = 0x0#4) : op = r.pat := by
    rw [← opcodeRow_matches_iff.1 h, hmWord hk, BitVec.and_allOnes]
  have hN (hk) : fieldN op = fieldN r.pat := field_of_matches h (hmN hk)
  have hNN (hk) : fieldNN op = fieldNN r.pat := field_of_matches h (hmNN hk)
  unfold illegalByGroup at hop
  rw [h0] at hop
  obtain ⟨hk, hw⟩ | ⟨hk, hn⟩ | ⟨hk, hn⟩ | ⟨hk, hn⟩ | ⟨hk, hnn⟩ | ⟨hk, hnn⟩ := hop
  · exact .inl ⟨hk, hWord hk ▸ hw⟩
  · exact .inr (.inl ⟨hk, hN (by simp [hk]) ▸ hn⟩)
  · exact .inr (.inr (.inl ⟨hk, hN (by simp [hk]) ▸ hn⟩))
  · exact .inr (.inr (.inr (.inl ⟨hk, hN (by simp [hk]) ▸ hn⟩)))
  · exact .inr (.inr (.inr (.inr (.inl ⟨hk, hNN (by simp [hk]) ▸ hnn⟩))))
  · exact .inr (.inr (.inr (.inr (.inr ⟨hk, hNN (by simp [hk]) ▸ hnn⟩))))

theorem not_illegalByGroup_of_legalWord (h : legalWord op = true) : ¬ illegalByGroup op := by
  obtain ⟨r, hr, hm⟩ := List.any_eq_true.1 h
  exact fun hop => opcodeTable_pat_legal r hr (illegalByGroup_pat hr hm hop)

/-- R100: the word of every instruction is a word of its row. -/
theorem tableRow (i : Instr) : Laws.TableRow.Statement i := by
  cases i
  exacts [Laws.TableRow.cls, Laws.TableRow.ret, Laws.TableRow.jp _, Laws.TableRow.call _, Laws.TableRow.seImm _ _,
    Laws.TableRow.sneImm _ _, Laws.TableRow.seReg _ _, Laws.TableRow.ldImm _ _, Laws.TableRow.addImm _ _,
    Laws.TableRow.ldReg _ _, Laws.TableRow.orReg _ _, Laws.TableRow.andReg _ _, Laws.TableRow.xorReg _ _,
    Laws.TableRow.addReg _ _, Laws.TableRow.sub _ _, Laws.TableRow.shr _ _, Laws.TableRow.subn _ _, Laws.TableRow.shl _ _,
    Laws.TableRow.sneReg _ _, Laws.TableRow.ldI _, Laws.TableRow.jpV0 _, Laws.TableRow.rnd _ _, Laws.TableRow.drw _ _ _,
    Laws.TableRow.skp _, Laws.TableRow.sknp _, Laws.TableRow.ldVxDt _, Laws.TableRow.ldVxK _, Laws.TableRow.ldDtVx _,
    Laws.TableRow.ldStVx _, Laws.TableRow.addI _, Laws.TableRow.ldF _, Laws.TableRow.ldB _, Laws.TableRow.stRegs _,
    Laws.TableRow.ldRegs _]

theorem rowOf_matches_of_decode (h : decode op = .ok i) : (rowOf i).matches op = true :=
  encode_of_decode h ▸ (tableRow i).1

theorem legalWord_of_decode (h : decode op = .ok i) : legalWord op = true :=
  List.any_eq_true.2 ⟨rowOf i, (tableRow i).2, rowOf_matches_of_decode h⟩

/-- Settles O5: a word the decoder rejects is in a group of R104, and no row matches a word of those. -/
theorem decodeFollowsOpcodeTable : Obligations.DecodeFollowsOpcodeTable := by
  refine fun op => ⟨⟨fun ⟨i, hi⟩ => legalWord_of_decode hi, fun hl => ?_⟩, fun i => rowOf_matches_of_decode⟩
  cases hd : decode op with
  | ok i => exact ⟨i, rfl⟩
  | error e => exact absurd (illegalByGroup_of_decode_error hd) (not_illegalByGroup_of_legalWord hl)

/-! ### Illegal words and the fetch -/

theorem decode_error_of_illegalByGroup (h : illegalByGroup op) : ∃ e, decode op = .error e := by
  cases hd : decode op with
  | ok i => exact absurd h (not_illegalByGroup_of_legalWord (legalWord_of_decode hd))
  | error e => exact ⟨e, rfl⟩

/-- R228: `raise` is the fault entry of the statements. -/
theorem raise_eq_faulted (kind : FaultKind) (w : Word) (o : FaultOp) (a : Nat) (s : State) :
    raise kind w o a s = faulted s kind w o a := rfl

/-- R223: an `Exec` step that fetches a word without a meaning takes `DecodeFault`. -/
theorem execStep_of_decode_error {e : DecodeError} (hf : fetch s = .ok op) (hd : decode op = .error e) :
    execStep s = .next (raise .decode op .none s.pc.toNat s) := by
  simp [execStep, hf, hd]

/-- R227: an `Exec` step whose fetch fails takes `MemBounds` before it decodes anything. -/
theorem execStep_of_fetch_error {a : Nat} (hf : fetch s = .error a) :
    execStep s = .next (raise .memBounds 0x0000#16 .fetch a s) := by
  simp [execStep, hf]

/-- Settles O9: the decoder's errors are R104's groups, and the Engine's step decodes what it fetched. -/
theorem illegalWordTakesDecodeFault : Obligations.IllegalWordTakesDecodeFault := by
  refine ⟨fun op => ⟨fun ⟨e, he⟩ => illegalByGroup_of_decode_error he, decode_error_of_illegalByGroup⟩, ?_⟩
  intro s op hr hs hf hop
  obtain ⟨e, hd⟩ := decode_error_of_illegalByGroup hop
  rw [step_of_script_nil hs (by simp [hr]), engineStep_of_running hr, execStep_of_decode_error hf hd, raise_eq_faulted]

/-- R90: a fetch beyond 0xFFE reports the lowest address out of bounds. -/
theorem fetch_error (h : 4094 < s.pc.toNat) : fetch s = .error (if s.pc.toNat = 4095 then 4096 else s.pc.toNat) := by
  unfold fetch
  by_cases hpc : s.pc.toNat = 4095
  · simp [hpc]
  · rw [if_pos (by omega), if_neg hpc]

/-- Settles O8: inside memory the fetch is the two bytes, and beyond it the Engine's step takes the fault it reports. -/
theorem fetchReadsTwoBytesOrFaults : Obligations.FetchReadsTwoBytesOrFaults := by
  refine fun s => ⟨fun h => (fetch_ok_iff _).2 ⟨h, rfl⟩, fun h hr => ?_⟩
  rw [perform, engineStep_of_running hr, execStep_of_fetch_error (fetch_error h), raise_eq_faulted]

/-- Settles O1: the decoder evaluated on each word. -/
theorem specifiedWordsDecode : Obligations.SpecifiedWordsDecode := by
  unfold Obligations.SpecifiedWordsDecode
  decide

end Sys2Proof.Machine
end

section
/-! Proofs for the family 40_control_transfer.md: the jumps (R122, R124), the call and the return (R121, R123), and calls nested in
one another (R125). -/

namespace Sys2Proof.Machine

variable {s t : State} {nnn : Imm12} {w : Word}

/-! ### The call and the return -/

@[simp] theorem State.push_sp (s : State) (w : Word) : (s.push w).sp = s.sp + 1 := List.length_append

/-- R123 with R31: with room on the stack a call pushes the address after it and jumps. -/
theorem exec_call_of_sp_ne (h : s.sp ≠ s.cfg.stackDepth) :
    exec (.call nnn) s = .next ((s.push (s.pc + 2#16)).jumpTo (zext16 nnn)) := if_neg h

/-- R123 with R31: with a full stack a call takes `StackOverflow`. -/
theorem exec_call_of_sp_eq (h : s.sp = s.cfg.stackDepth) :
    exec (.call nnn) s = .next (faulted s .stackOverflow (0x2#4 ++ nnn) .none s.cfg.stackDepth) := if_pos h

/-- R121 with R32: with an empty stack a return takes `StackUnderflow`. -/
theorem exec_ret_of_getLast?_eq_none (h : s.stack.getLast? = none) :
    exec .ret s = .next (faulted s .stackUnderflow 0x00EE#16 .none 0) := by
  simp only [exec, execRet, h]
  rfl

/-- R121: a return jumps to the last stack entry and drops it. -/
theorem exec_ret_of_getLast?_eq_some (h : s.stack.getLast? = some w) : exec .ret s = .next (s.dropTop.jumpTo w) := by
  simp only [exec, execRet, h]

/-- R32: the last stack entry is the one at index `SP - 1`. -/
theorem State.getD_sp_sub_one (h : s.stack.getLast? = some w) : s.stack.getD (s.sp - 1) 0x0000#16 = w := by
  rw [List.getD_eq_getElem?_getD, State.sp, ← List.getLast?_eq_getElem?, h, Option.getD_some]

/-- Settles O26: the return either finds no last entry, so `SP = 0`, or pops the one at `SP - 1`. -/
theorem retPopsReturnAddress : Obligations.RetPopsReturnAddress := by
  refine ⟨decode_encode .ret, fun s => ?_⟩
  cases hl : s.stack.getLast? with
  | none =>
    have hsp : s.sp = 0 := List.length_eq_zero_iff.2 (List.getLast?_eq_none_iff.1 hl)
    rw [exec_ret_of_getLast?_eq_none hl, if_pos hsp]
  | some w =>
    have hsp : s.sp ≠ 0 := fun h0 => by simp [List.length_eq_zero_iff.1 h0] at hl
    rw [exec_ret_of_getLast?_eq_some hl, if_neg hsp, State.getD_sp_sub_one hl, State.sp, ← List.dropLast_eq_take]
    rfl

/-- Settles O28: the two cases of the push. -/
theorem callPushesReturnAddress : Obligations.CallPushesReturnAddress := by
  refine fun nnn s => ⟨decode_encode (.call nnn), ?_⟩
  by_cases hsp : s.sp = s.cfg.stackDepth
  · rw [exec_call_of_sp_eq hsp, if_pos hsp]
  · rw [exec_call_of_sp_ne hsp, if_neg hsp]
    rfl

/-! ### The jumps -/

/-- Settles O27: a 12-bit target keeps its value in 16 bits. -/
theorem jumpSetsPc : Obligations.JumpSetsPc := fun nnn s =>
  ⟨decode_encode (.jp nnn), s.jumpTo (zext16 nnn), rfl, BitVec.toNat_setWidth_of_le (by decide), rfl⟩

/-- R124: the field `op[11:8]` that `Q_JUMP_VX` selects is the top nibble of `NNN`. -/
theorem topNibble_eq_ofNat (nnn : Imm12) : nnn.extractLsb' 8 4 = BitVec.ofNat 4 (nnn.toNat / 256) := by
  rw [BitVec.extractLsb', Nat.shiftRight_eq_div_pow]

/-- R124: a 12-bit target plus a byte fits in 16 bits, so the sum is not reduced. -/
theorem toNat_zext16_add_zextByte (nnn : Imm12) (b : Byte) : (zext16 nnn + zextByte b).toNat = nnn.toNat + b.toNat := by
  bv_omega

/-- Settles O29: the unreduced sum, with the offset register that the toggle selects. -/
theorem jumpWithOffset : Obligations.JumpWithOffset := by
  refine fun nnn s => ⟨decode_encode (.jpV0 nnn), s.jumpTo (zext16 nnn + zextByte (jumpOffset s nnn)), rfl, rfl, ?_⟩
  rw [State.jumpTo_pc, toNat_zext16_add_zextByte, jumpOffset, topNibble_eq_ofNat]

/-! ### Nested calls -/

theorem execAll_cons_of_exec {i : Instr} (is : List Instr) (h : exec i s = .next t) : execAll (i :: is) s = execAll is t := by
  simp only [execAll, h, andThen]

theorem execAll_append_of_execAll {is : List Instr} (js : List Instr) (h : execAll is s = .next t) :
    execAll (is ++ js) s = execAll js t := by
  induction is generalizing s with
  | nil => cases h; rfl
  | cons i is ih =>
    cases hu : exec i s with
    | next u =>
      rw [execAll_cons_of_exec _ hu] at h
      rw [List.cons_append, execAll_cons_of_exec _ hu]
      exact ih h
    | fault | refused => simp [execAll, hu, andThen] at h

/-- R125: a return pops what was pushed last. -/
theorem exec_ret_push (s : State) (w a : Word) : exec .ret ((s.push w).jumpTo a) = .next (s.jumpTo w) := by
  rw [exec_ret_of_getLast?_eq_some (w := w) (by simp)]
  simp [State.dropTop, State.push, State.jumpTo]

/-- R125: a call whose body leaves everything but `PC` as it found it returns to the address after the call, with everything else
as it was. -/
theorem execAll_call_body_ret {body : List Instr} (h : s.sp < s.cfg.stackDepth)
    (hb : execAll body ((s.push (s.pc + 2#16)).jumpTo (zext16 nnn)) = .next ((s.push (s.pc + 2#16)).jumpTo w)) :
    execAll (.call nnn :: (body ++ [.ret])) s = .next (s.jumpTo (s.pc + 2#16)) := by
  rw [execAll_cons_of_exec _ (exec_call_of_sp_ne h.ne), execAll_append_of_execAll _ hb,
    execAll_cons_of_exec _ (exec_ret_push ..), execAll]

/-- R125: nested calls with as many returns come back to the address after the outermost call; the inner calls are the body of
the outermost. -/
theorem execAll_calls_rets (target : Imm12) (more : List Imm12) (s : State)
    (h : s.sp + (more.length + 1) ≤ s.cfg.stackDepth) :
    execAll ((target :: more).map .call ++ List.replicate (more.length + 1) .ret) s = .next (s.jumpTo (s.pc + 2#16)) := by
  induction more generalizing target s with
  | nil => exact execAll_call_body_ret (body := []) h rfl
  | cons inner more ih =>
    rw [List.length_cons] at h ⊢
    rw [List.replicate_succ', ← List.append_assoc]
    refine execAll_call_body_ret (by omega) (ih inner _ ?_)
    rw [State.jumpTo_sp, State.push_sp, State.jumpTo_cfg, State.push_cfg]
    omega

/-- R125: calls that the stack has room for all succeed, and each takes one entry. -/
theorem execAll_calls (targets : List Imm12) (s : State) (h : s.sp + targets.length ≤ s.cfg.stackDepth) :
    ∃ t, execAll (targets.map .call) s = .next t ∧ t.sp = s.sp + targets.length ∧ t.cfg = s.cfg := by
  induction targets generalizing s with
  | nil => exact ⟨s, rfl, rfl, rfl⟩
  | cons target targets ih =>
    rw [List.length_cons] at h ⊢
    obtain ⟨t, ht, hsp, hcfg⟩ := ih ((s.push (s.pc + 2#16)).jumpTo (zext16 target)) (by simp; omega)
    refine ⟨t, (execAll_cons_of_exec _ (exec_call_of_sp_ne (by omega))).trans ht, ?_, hcfg⟩
    rw [hsp, State.jumpTo_sp, State.push_sp]
    omega

/-- Settles O30: by induction on the nesting, and by counting the entries that the calls push. -/
theorem nestedCallsReturn : Obligations.NestedCallsReturn := by
  refine ⟨execAll_calls_rets, fun targets nnn s h => ?_⟩
  obtain ⟨t, ht, hsp, hcfg⟩ := execAll_calls targets s h.le
  have hfull : t.sp = t.cfg.stackDepth := by rw [hsp, h, hcfg]
  exact ⟨t, ht, hcfg ▸ exec_call_of_sp_eq hfull⟩

end Sys2Proof.Machine
end

section
/-! Proofs for the family 41_skips.md: the skips on an immediate (R131, R132) and on a second register (R133, R134). -/

namespace Sys2Proof.Machine

/-- R130: a skip on equality goes to `PC + 4` when the bytes are equal, and writes `PC` only. -/
theorem State.skipIf_beq (s : State) (a b : Byte) :
    s.skipIf (a == b) = { s with pc := if a = b then s.pc + 4#16 else s.pc + 2#16 } := by
  simp only [State.skipIf, beq_iff_eq]

/-- R130: a skip on inequality goes to `PC + 4` when the bytes differ, and writes `PC` only. -/
theorem State.skipIf_bne (s : State) (a b : Byte) :
    s.skipIf (a != b) = { s with pc := if a = b then s.pc + 2#16 else s.pc + 4#16 } := by
  simp only [State.skipIf, bne_iff_ne, ite_not]

/-- Settles O31: a skip on the immediate's equality, then one on its inequality. -/
theorem skipOnImmediate : Obligations.SkipOnImmediate := fun x nn s =>
  ⟨decode_encode (.seImm x nn), decode_encode (.sneImm x nn),
    congrArg _ (s.skipIf_beq (s.getV x) nn), congrArg _ (s.skipIf_bne (s.getV x) nn)⟩

/-- Settles O32: a skip on the two registers' equality, then one on their inequality. -/
theorem skipOnRegisters : Obligations.SkipOnRegisters := fun x y s =>
  ⟨decode_encode (.seReg x y), decode_encode (.sneReg x y),
    congrArg _ (s.skipIf_beq (s.getV x) (s.getV y)), congrArg _ (s.skipIf_bne (s.getV x) (s.getV y))⟩

end Sys2Proof.Machine
end

section
/-! Proofs for the family 42_immediate.md: the load and the addition of an immediate (R141, R142). -/

namespace Sys2Proof.Machine

/-- R140: an instruction whose effect is one register write and the advance changes only that register and `PC`. -/
theorem exec_setV_advance {i : Instr} {s : State} {x : Reg} {b : Byte} (h : exec i s = .next (s.setV x b).advance) :
    ∃ t, exec i s = .next t ∧ t = { s with v := t.v, pc := s.pc + 2#16 }
      ∧ t.getV x = b ∧ ∀ r, r ≠ x → t.getV r = s.getV r :=
  ⟨(s.setV x b).advance, h, rfl, s.getV_setV_self x b, fun _ => s.getV_setV_of_ne b⟩

/-- Settles O33: both write one register; the sum of two bytes is taken modulo 256. -/
theorem loadAndAddImmediate : Obligations.LoadAndAddImmediate := by
  refine fun x nn s => ⟨decode_encode (.ldImm x nn), decode_encode (.addImm x nn), exec_setV_advance rfl, ?_⟩
  obtain ⟨t, hexec, hframe, hx, hothers⟩ := exec_setV_advance (i := .addImm x nn) (s := s) rfl
  have hsum : (t.getV x).toNat = ((s.getV x).toNat + nn.toNat) % 256 := hx ▸ BitVec.toNat_add ..
  exact ⟨t, hexec, hframe, hsum, hothers⟩

end Sys2Proof.Machine
end

section
/-! Proofs for the family 43_alu.md: the copy (R153), the logic operations (R154 to R156), and the additions, subtractions and shifts
that write `VF` (R157 to R161). -/

namespace Sys2Proof.Machine

variable {s : State} {i : Instr} {x : Reg} {b : Byte}

/-! ### One register write -/

/-- Settles O34: the copy is one register write. -/
theorem copyRegister : Obligations.CopyRegister := fun x y _ =>
  ⟨decode_encode (.ldReg x y), exec_setV_advance rfl⟩

/-- R152: an instruction that writes a byte of known bits to one register leaves those bits there, and changes only that
register and `PC`. -/
theorem exec_setV_advance_bits {bit : Nat → Bool} (h : exec i s = .next (s.setV x b).advance)
    (hb : ∀ k, b.getLsbD k = bit k) :
    ∃ t, exec i s = .next t ∧ t = { s with v := t.v, pc := s.pc + 2#16 }
      ∧ (∀ k, (t.getV x).getLsbD k = bit k) ∧ ∀ r, r ≠ x → t.getV r = s.getV r := by
  obtain ⟨t, hexec, hframe, hx, hothers⟩ := exec_setV_advance h
  exact ⟨t, hexec, hframe, fun k => hx ▸ hb k, hothers⟩

/-- Settles O35: each of the three writes one register, with the bits of a bitwise operation on the operands. -/
theorem logicOperations : Obligations.LogicOperations := fun x y _ =>
  ⟨decode_encode (.orReg x y), decode_encode (.andReg x y), decode_encode (.xorReg x y),
    exec_setV_advance_bits rfl fun _ => BitVec.getLsbD_or, exec_setV_advance_bits rfl fun _ => BitVec.getLsbD_and,
    exec_setV_advance_bits rfl fun _ => BitVec.getLsbD_xor⟩

/-! ### The flags as numbers -/

theorem flagByte_decide_toNat (p : Prop) [Decidable p] : (flagByte (decide p)).toNat = if p then 1 else 0 := by
  by_cases h : p <;> simp [flagByte, h]

theorem flagByte_carryOut_toNat (a b : Byte) :
    (flagByte (carryOut a b)).toNat = if 255 < a.toNat + b.toNat then 1 else 0 := flagByte_decide_toNat _

theorem flagByte_notBorrow_toNat (a b : Byte) :
    (flagByte (notBorrow a b)).toNat = if b.toNat ≤ a.toNat then 1 else 0 := flagByte_decide_toNat _

/-- A bit of a byte as a flag is that binary digit of the byte. -/
theorem flagByte_getLsbD_toNat (b : Byte) (k : Nat) : (flagByte (b.getLsbD k)).toNat = b.toNat / 2 ^ k % 2 := by
  rw [BitVec.getLsbD, Nat.testBit_eq_decide_div_mod_eq, flagByte_decide_toNat]
  rcases Nat.mod_two_eq_zero_or_one (b.toNat / 2 ^ k) with h | h <;> simp [h]

theorem flagByte_shiftedOutRight_toNat (b : Byte) : (flagByte (shiftedOutRight b)).toNat = b.toNat % 2 := by
  have hbit : (flagByte (b.getLsbD 0)).toNat = b.toNat / 1 % 2 := flagByte_getLsbD_toNat b 0
  exact hbit.trans (by rw [Nat.div_one])

theorem flagByte_shiftedOutLeft_toNat (b : Byte) : (flagByte (shiftedOutLeft b)).toNat = b.toNat / 128 := by
  have hbit : (flagByte (b.getLsbD 7)).toNat = b.toNat / 128 % 2 := flagByte_getLsbD_toNat b 7
  have htop : b.toNat / 128 < 2 := by omega
  exact hbit.trans (Nat.mod_eq_of_lt htop)

/-! ### A result and a flag -/

/-- R151: an instruction that writes a result and then a flag leaves the flag in `VF`, the result in its destination unless that is
`VF`, and changes nothing but these two and `PC`. -/
theorem exec_writeWithFlag_advance {c : Bool} {flag result : Nat} (h : exec i s = .next (writeWithFlag s x b c).advance)
    (hc : (flagByte c).toNat = flag) (hb : b.toNat = result) :
    ∃ t, exec i s = .next t ∧ t = { s with v := t.v, pc := s.pc + 2#16 }
      ∧ (t.getV vf).toNat = flag ∧ (x ≠ vf → (t.getV x).toNat = result) ∧ ∀ r, r ≠ x → r ≠ vf → t.getV r = s.getV r := by
  have hvf : (writeWithFlag s x b c).getV vf = flagByte c := by rw [writeWithFlag_getV, if_pos rfl]
  have hx (hne : x ≠ vf) : (writeWithFlag s x b c).getV x = b := by rw [writeWithFlag_getV, if_neg hne, if_pos rfl]
  exact ⟨(writeWithFlag s x b c).advance, h, rfl, (congrArg BitVec.toNat hvf).trans hc,
    fun hne => (congrArg BitVec.toNat (hx hne)).trans hb, fun _ => writeWithFlag_getV_of_ne b c⟩

/-- Settles O36: the result is the sum of the two registers, the flag its carry. -/
theorem addRegistersWithCarry : Obligations.AddRegistersWithCarry := fun x y _ =>
  ⟨decode_encode (.addReg x y), exec_writeWithFlag_advance rfl (flagByte_carryOut_toNat ..) (BitVec.toNat_add ..)⟩

/-- R158, R160: a difference modulo 256, with the subtrahend taken from the minuend and 256. -/
theorem byte_sub_toNat (a b : Byte) : (a - b).toNat = (a.toNat + 256 - b.toNat) % 256 := by
  rw [BitVec.toNat_sub]
  omega

/-- Settles O37: the two subtractions differ in which register is the minuend, for the result and for the flag. -/
theorem subtractRegistersNotBorrow : Obligations.SubtractRegistersNotBorrow := fun x y _ =>
  ⟨decode_encode (.sub x y), decode_encode (.subn x y),
    exec_writeWithFlag_advance rfl (flagByte_notBorrow_toNat ..) (byte_sub_toNat ..),
    exec_writeWithFlag_advance rfl (flagByte_notBorrow_toNat ..) (byte_sub_toNat ..)⟩

/-- Settles O38: the quirk selects the source; the result is the source shifted by one, the flag the bit that leaves it. -/
theorem shiftsBySourceQuirk : Obligations.ShiftsBySourceQuirk := by
  intro x y s src hsrc
  obtain rfl : src = shiftSource s x y := hsrc
  have hright (a : Byte) : (a >>> 1).toNat = a.toNat / 2 := by rw [BitVec.toNat_ushiftRight, Nat.shiftRight_one]
  have hleft (a : Byte) : (a <<< 1).toNat = a.toNat * 2 % 256 := by rw [BitVec.toNat_shiftLeft, Nat.shiftLeft_eq]
  exact ⟨decode_encode (.shr x y), decode_encode (.shl x y),
    exec_writeWithFlag_advance rfl (flagByte_shiftedOutRight_toNat _) (hright _),
    exec_writeWithFlag_advance rfl (flagByte_shiftedOutLeft_toNat _) (hleft _)⟩

end Sys2Proof.Machine
end

section
/-! Proofs for the family 44_index_and_random.md: the instructions that write `I` (R171, R173, R174) and the random byte (R172). -/

namespace Sys2Proof.Machine

variable {s : State}

/-! ### The index register -/

/-- R170: an instruction whose effect is one write of `I` and the advance leaves the value written there, and changes only `I` and
`PC`. -/
theorem exec_setI_advance {i : Instr} {w : Word} {n : Nat} (h : exec i s = .next (s.setI w).advance) (hw : w.toNat = n) :
    ∃ t, exec i s = .next t ∧ t = { s with i := t.i, pc := s.pc + 2#16 } ∧ t.i.toNat = n :=
  ⟨(s.setI w).advance, h, rfl, hw⟩

/-- R173: the sum of the index and a byte is reduced modulo 65536. -/
theorem word_add_zextByte_toNat (w : Word) (b : Byte) : (w + zextByte b).toNat = (w.toNat + b.toNat) % 65536 := by
  rw [BitVec.toNat_add, BitVec.toNat_setWidth_of_le (by decide)]

theorem lowNibble_toNat (s : State) (x : Reg) : (lowNibble s x).toNat = (s.getV x).toNat % 16 := by
  rw [lowNibble, BitVec.extractLsb'_toNat, Nat.shiftRight_zero]

/-- R174: glyphs lie five bytes apart from `FONT_BASE`. -/
theorem glyphAddress_toNat (s : State) (d : Nibble) :
    (glyphAddress s d).toNat = (s.cfg.fontBase.toNat + 5 * d.toNat) % 65536 := by
  rw [glyphAddress, BitVec.toNat_add, BitVec.toNat_ofNat, Nat.add_mod_mod]

/-- Settles O39: each of the three is one write of `I`, of the immediate, of the sum, and of the glyph's address. -/
theorem indexRegisterWrites : Obligations.IndexRegisterWrites := by
  intro nnn x s
  have hldF : (glyphAddress s (lowNibble s x)).toNat = (s.cfg.fontBase.toNat + 5 * ((s.getV x).toNat % 16)) % 65536 := by
    rw [glyphAddress_toNat, lowNibble_toNat]
  exact ⟨decode_encode (.ldI nnn), decode_encode (.addI x), decode_encode (.ldF x),
    exec_setI_advance rfl (BitVec.toNat_setWidth_of_le (by decide)),
    exec_setI_advance rfl (word_add_zextByte_toNat ..), exec_setI_advance rfl hldF⟩

/-! ### The random byte -/

/-- R172: a draw takes the next byte the environment has supplied. -/
theorem State.draw_of_rnd_cons {b : Byte} {rest : List Byte} (h : s.rnd = b :: rest) :
    s.rndByte = b ∧ s.consumeRnd.rnd = rest ∧ s.consumeRnd.draws = s.draws := by
  simp only [State.rndByte, State.consumeRnd, h, List.headD_cons, and_self]

/-- R172: with no byte supplied a draw takes the free value of the draw counter, and counts it. -/
theorem State.draw_of_rnd_nil (h : s.rnd = []) :
    s.rndByte = Config.rndInput s.draws ∧ s.consumeRnd.rnd = [] ∧ s.consumeRnd.draws = s.draws + 1 := by
  simp only [State.rndByte, State.consumeRnd, h, List.headD_nil, and_self]

/-- What `CXNN` leaves: the draw used up, one register written and the next `PC`. -/
theorem rndEffect_rest (x : Reg) (nn : Byte) (s : State) : (s.consumeRnd.setV x (s.rndByte &&& nn)).advance =
    { s with v := (s.consumeRnd.setV x (s.rndByte &&& nn)).v, rnd := s.consumeRnd.rnd, draws := s.consumeRnd.draws,
             pc := s.pc + 2#16 } := by
  rw [State.consumeRnd_rest]
  rfl

theorem byte_and_toNat_le_right (a b : Byte) : (a &&& b).toNat ≤ b.toNat :=
  (BitVec.toNat_and ..).trans_le Nat.and_le_right

/-- Settles O40: the byte drawn is what `rnd` shows; the two cases of the draw are whether the environment has supplied one. -/
theorem randomByteMasked : Obligations.RandomByteMasked := by
  intro x nn s
  have hx : (s.consumeRnd.setV x (s.rndByte &&& nn)).getV x = s.rndByte &&& nn := State.getV_setV_self ..
  have hothers (q : Reg) (hq : q ≠ x) : (s.consumeRnd.setV x (s.rndByte &&& nn)).getV q = s.getV q :=
    (s.consumeRnd.getV_setV_of_ne _ hq).trans (s.consumeRnd_getV q)
  exact ⟨decode_encode (.rnd x nn), _, s.rndByte, rfl, rndEffect_rest x nn s,
    hx, (congrArg BitVec.toNat hx).trans_le (byte_and_toNat_le_right ..), hothers,
    fun _ _ => State.draw_of_rnd_cons, State.draw_of_rnd_nil⟩

end Sys2Proof.Machine
end

section
/-! Proofs for the family 45_display.md: the clear (R181), the sprite and the same draw repeated (R182 to R184), and which instructions
publish (R180, R247). -/

namespace Sys2Proof.Machine

variable {s t u : State} {x y : Reg} {n : Nibble}

/-! ### The clear -/

/-- Settles O41: the picture that the clear leaves and publishes is the blank one. -/
theorem clearDisplay : Obligations.ClearDisplay :=
  ⟨decode_encode .cls, fun s => ⟨(s.setDisp blankFrame).publish.advance, rfl, rfl, pixel_blank⟩⟩

/-! ### The sprite's pixels -/

/-- R182, R183: the positions drawn are those the sprite reaches. -/
theorem mem_drwPixels {px py : Nat} : (px, py) ∈ drwPixels s x y n ↔ spriteCovers s x y n px py := by
  simp [drwPixels, mem_spritePixels, spriteCovers, State.bytesFrom]

/-- R182 (c): no position is drawn twice, since a sprite has at most 15 rows. -/
theorem drwPixels_nodup (s : State) (x y : Reg) (n : Nibble) : (drwPixels s x y n).Nodup :=
  spritePixels_nodup _ _ _ (by rw [bytesFrom_length]; omega)

theorem drwPixels_onGrid : ∀ p ∈ drwPixels s x y n, p.1 < 64 ∧ p.2 < 32 := fun _ => spritePixels_onGrid

/-- The positions drawn depend on the coordinates, `I`, the straps and memory only. -/
theorem drwPixels_congr (hx : t.getV x = s.getV x) (hy : t.getV y = s.getV y) (hi : t.i = s.i) (hc : t.cfg = s.cfg)
    (hm : t.mem = s.mem) : drwPixels t x y n = drwPixels s x y n := by
  simp only [drwPixels, State.bytesFrom, State.byteAt, hx, hy, hi, hc, hm]

/-- R184: drawing the same distinct on-grid positions a second time restores the picture. -/
theorem blit_blit (f : Frame) {ps : List (Nat × Nat)} (hd : ps.Nodup) (hg : ∀ p ∈ ps, p.1 < 64 ∧ p.2 < 32) :
    (blit (blit f ps).1 ps).1 = f := by
  refine frame_ext fun x _ y _ => ?_
  rw [(blit_spec _ ps hd hg).1, (blit_spec f ps hd hg).1]
  split <;> simp

/-! ### The draw -/

/-- What `DXYN` leaves when its sprite lies inside memory (R182). -/
def drawn (s : State) (x y : Reg) (n : Nibble) : State :=
  ((s.setDisp (blit s.disp (drwPixels s x y n)).1).setV vf (flagByte (blit s.disp (drwPixels s x y n)).2)).publish.advance

/-- R182: a sprite that lies inside memory is drawn. -/
theorem exec_drw_of_inRange (h : ¬ (0 < n.toNat ∧ 4095 < s.i.toNat + n.toNat - 1)) :
    exec (.drw x y n) s = .next (drawn s x y n) := if_neg (mt (outOfRange_iff s n.toNat).1 h)

/-- R182: a sprite whose last byte lies beyond memory takes `MemBounds`. -/
theorem exec_drw_of_outOfRange (h : 0 < n.toNat ∧ 4095 < s.i.toNat + n.toNat - 1) :
    exec (.drw x y n) s = .next (faulted s .memBounds (0xD#4 ++ x ++ y ++ n) .read (max s.i.toNat 4096)) :=
  if_pos ((outOfRange_iff s n.toNat).2 h)

/-- R182: a draw flips the pixels at the positions drawn and leaves the others alone. -/
theorem pixel_drawn (s : State) (x y : Reg) (n : Nibble) (px py : Nat) : pixel (drawn s x y n).disp px py =
    if (px, py) ∈ drwPixels s x y n then !pixel s.disp px py else pixel s.disp px py :=
  (blit_spec s.disp _ (drwPixels_nodup s x y n) drwPixels_onGrid).1 px py

theorem pixel_drawn_of_covers {px py : Nat} (h : spriteCovers s x y n px py) :
    pixel (drawn s x y n).disp px py = !pixel s.disp px py := by
  rw [pixel_drawn, if_pos (mem_drwPixels.2 h)]

theorem pixel_drawn_of_not_covers {px py : Nat} (h : ¬ spriteCovers s x y n px py) :
    pixel (drawn s x y n).disp px py = pixel s.disp px py := by
  rw [pixel_drawn, if_neg (mt mem_drwPixels.1 h)]

theorem drawn_getV_vf (s : State) (x y : Reg) (n : Nibble) :
    (drawn s x y n).getV vf = flagByte (blit s.disp (drwPixels s x y n)).2 := State.getV_setV_self ..

theorem drawn_getV_of_ne {r : Reg} (h : r ≠ vf) : (drawn s x y n).getV r = s.getV r := State.getV_setV_of_ne _ _ h

theorem flagByte_eq_one_or_zero (c : Bool) : flagByte c = 0x01#8 ∨ flagByte c = 0x00#8 := by cases c <;> decide

theorem flagByte_eq_one_iff {c : Bool} : flagByte c = 0x01#8 ↔ c = true := by cases c <;> decide

/-- R182: the flag is 1 exactly when the sprite reaches a pixel that was set. -/
theorem drawn_getV_vf_eq_one_iff :
    (drawn s x y n).getV vf = 0x01#8 ↔ ∃ px py, spriteCovers s x y n px py ∧ pixel s.disp px py = true := by
  rw [drawn_getV_vf, flagByte_eq_one_iff, (blit_spec s.disp _ (drwPixels_nodup s x y n) drwPixels_onGrid).2, Prod.exists]
  simp only [mem_drwPixels]

section Repeated

variable (hx : (drawn s x y n).getV x = s.getV x) (hy : (drawn s x y n).getV y = s.getV y)
include hx hy

/-- R182 (h): a draw that leaves its coordinates alone draws the same positions again. -/
theorem drwPixels_drawn : drwPixels (drawn s x y n) x y n = drwPixels s x y n := drwPixels_congr hx hy rfl rfl rfl

theorem spriteCovers_drawn_iff {px py : Nat} : spriteCovers (drawn s x y n) x y n px py ↔ spriteCovers s x y n px py := by
  rw [← mem_drwPixels, drwPixels_drawn hx hy, mem_drwPixels]

/-- R184: the second of two equal draws restores the display. -/
theorem drawn_drawn_disp : (drawn (drawn s x y n) x y n).disp = s.disp := by
  have hdisp : (drawn (drawn s x y n) x y n).disp = (blit (blit s.disp (drwPixels s x y n)).1 (drwPixels s x y n)).1 :=
    congrArg (fun ps => (blit (blit s.disp (drwPixels s x y n)).1 ps).1) (drwPixels_drawn hx hy)
  exact hdisp.trans (blit_blit s.disp (drwPixels_nodup s x y n) drwPixels_onGrid)

/-- R182: the second draw's flag reports whether the first left a pixel of the sprite set. -/
theorem drawn_drawn_getV_vf_eq_one_iff : (drawn (drawn s x y n) x y n).getV vf = 0x01#8 ↔
    ∃ px py, spriteCovers s x y n px py ∧ pixel (drawn s x y n).disp px py = true := by
  rw [drawn_getV_vf_eq_one_iff]
  simp only [spriteCovers_drawn_iff hx hy]

end Repeated

/-- Settles O42: the range check splits the fault from the draw; the blit flips the distinct positions the sprite reaches, so the
same blit again flips them back. -/
theorem drawSprite : Obligations.DrawSprite := by
  refine fun x y n s => ⟨decode_encode (.drw x y n), exec_drw_of_outOfRange, fun hfit => ?_⟩
  have hin : ¬ (0 < n.toNat ∧ 4095 < s.i.toNat + n.toNat - 1) := by omega
  have hflag : (drawn s x y n).getV vf = 0x01#8 ∨ (drawn s x y n).getV vf = 0x00#8 := by
    rw [drawn_getV_vf]
    exact flagByte_eq_one_or_zero _
  exact ⟨drawn s x y n, exec_drw_of_inRange hin, rfl,
    fun _ _ _ _ => ⟨pixel_drawn_of_covers, pixel_drawn_of_not_covers⟩, hflag, drawn_getV_vf_eq_one_iff,
    fun _ => drawn_getV_of_ne,
    fun hx hy => ⟨drawn (drawn s x y n) x y n, exec_drw_of_inRange hin, drawn_drawn_disp hx hy,
      drawn_drawn_getV_vf_eq_one_iff hx hy⟩⟩

/-! ### Who publishes -/

/-- R36, R247: the snapshot's linear order is row by row. -/
theorem frameBit_eq_pixel (f : Frame) {px : Nat} (py : Nat) (h : px < 64) : frameBit f (64 * py + px) = pixel f px py := by
  have hcol : (64 * py + px) % 64 = px := by omega
  have hrow : (64 * py + px) / 64 = py := by omega
  rw [frameBit, hcol, hrow]

/-- The display and the frame slot: what only a publishing instruction writes (R180). -/
def State.screen (s : State) : Frame × Frame × Bool := (s.disp, s.fcFrame, s.fcPending)

theorem State.screen_eq_iff :
    t.screen = s.screen ↔ t.disp = s.disp ∧ t.fcFrame = s.fcFrame ∧ t.fcPending = s.fcPending := by
  simp [State.screen]

/-- A range-checked instruction keeps whatever both its fault and its effect keep. -/
theorem checked_keeps {α : Type} (f : State → α) {w : Word} {op : FaultOp} {k : Nat} (h : checked s w op k u = .next t)
    (hr : f (raise .memBounds w op (faultAddress s) s) = f s) (hu : f u = f s) : f t = f s := by
  obtain ⟨-, rfl⟩ | ⟨-, rfl⟩ := checked_cases h
  · exact hr
  · exact hu

/-- R180: an instruction that is not display-mutating leaves the screen alone, faulting or not. -/
theorem exec_screen {i : Instr} (h : exec i s = .next t) (hi : mutatesDisplay i = false) : t.screen = s.screen := by
  cases i with
  | cls | drw => cases hi
  | ret => obtain ⟨-, rfl⟩ | ⟨w, -, rfl⟩ := execRet_cases h <;> rfl
  | call nnn => obtain ⟨-, rfl⟩ | ⟨-, rfl⟩ := execCall_cases h <;> rfl
  | rnd x nn => cases h; rw [rndEffect_rest]; rfl
  | ldB x => exact checked_keeps State.screen h rfl rfl
  | stRegs x => exact checked_keeps State.screen h rfl (by rw [storeEffect_rest]; rfl)
  | ldRegs x => exact checked_keeps State.screen h rfl (by rw [loadEffect_rest]; rfl)
  | _ => cases h; rfl

/-- R180: a display-mutating instruction publishes the display it leaves, or faults and leaves the screen alone. -/
theorem exec_mutatesDisplay_cases {i : Instr} (h : exec i s = .next t) (hi : mutatesDisplay i = true) :
    (¬ faultsOn s i ∧ t.fcFrame = t.disp ∧ t.fcPending = true) ∨ (faultsOn s i ∧ t.screen = s.screen) := by
  cases i with
  | cls => cases h; exact .inl ⟨fun hf => Nat.lt_irrefl 0 hf.1, rfl, rfl⟩
  | drw x y n =>
    by_cases hf : 0 < n.toNat ∧ 4095 < s.i.toNat + n.toNat - 1
    · rw [exec_drw_of_outOfRange hf] at h
      cases h
      exact .inr ⟨hf, rfl⟩
    · rw [exec_drw_of_inRange hf] at h
      cases h
      exact .inl ⟨hf, rfl, rfl⟩
  | _ => cases hi

/-- Settles O22: the clear and the draw publish unless they fault; every other instruction leaves the screen alone. -/
theorem onlyDisplayInstructionsPublish : Obligations.OnlyDisplayInstructionsPublish := by
  intro i s t h
  rw [← State.screen_eq_iff]
  cases hi : mutatesDisplay i with
  | false => exact ⟨nofun, fun _ => exec_screen h hi⟩
  | true =>
    obtain ⟨hf, hframe, hpending⟩ | ⟨hf, hscreen⟩ := exec_mutatesDisplay_cases h hi
    · refine ⟨fun _ _ => ⟨hframe, hpending, fun px hpx py _ => ?_⟩, fun hor => ?_⟩
      · rw [frameBit_eq_pixel _ _ hpx, hframe]
      · exact absurd (hor.resolve_left nofun) hf
    · exact ⟨fun _ hn => absurd hf hn, fun _ => hscreen⟩

end Sys2Proof.Machine
end

section
/-! Proofs for the family 46_keypad.md: the skips on a key (R191, R192), the instruction that waits for one (R193, R195), and the `Wake`
that completes it (R194). -/

namespace Sys2Proof.Machine

variable {s t u : State} {i : Instr}

/-! ### The only instruction that suspends -/

/-- A range-checked instruction always answers a next state, its fault or its effect. -/
theorem checked_exists_next (s : State) (w : Word) (op : FaultOp) (n : Nat) (u : State) : ∃ t, checked s w op n u = .next t := by
  unfold checked
  split
  · exact ⟨_, rfl⟩
  · exact ⟨_, rfl⟩

/-- R16, R228: every instruction answers a next state; a fault is one too. -/
theorem exec_exists_next (i : Instr) (s : State) : ∃ t, exec i s = .next t := by
  cases i with
  | ret =>
    cases hl : s.stack.getLast? with
    | none => exact ⟨_, exec_ret_of_getLast?_eq_none hl⟩
    | some w => exact ⟨_, exec_ret_of_getLast?_eq_some hl⟩
  | call nnn =>
    by_cases hsp : s.sp = s.cfg.stackDepth
    · exact ⟨_, exec_call_of_sp_eq hsp⟩
    · exact ⟨_, exec_call_of_sp_ne hsp⟩
  | drw | ldB | stRegs | ldRegs => exact checked_exists_next ..
  | _ => exact ⟨_, rfl⟩

/-- A range-checked instruction halts, or leaves the run state that its effect leaves. -/
theorem checked_run {w : Word} {op : FaultOp} {n : Nat} (h : checked s w op n u = .next t) (hu : u.run = s.run) :
    t.run = .halted ∨ t.run = s.run := by
  obtain ⟨-, rfl⟩ | ⟨-, rfl⟩ := checked_cases h
  · exact .inl rfl
  · exact .inr hu

/-- R195: an instruction other than `FX0A` halts with a fault, or leaves the run state alone. -/
theorem exec_run_of_ne_ldVxK (h : exec i s = .next t) (hi : ∀ x, i ≠ .ldVxK x) : t.run = .halted ∨ t.run = s.run := by
  cases i with
  | ldVxK x => exact absurd rfl (hi x)
  | ret =>
    obtain ⟨-, rfl⟩ | ⟨w, -, rfl⟩ := execRet_cases h
    · exact .inl rfl
    · exact .inr rfl
  | call nnn =>
    obtain ⟨-, rfl⟩ | ⟨-, rfl⟩ := execCall_cases h
    · exact .inl rfl
    · exact .inr rfl
  | drw | ldB => exact checked_run h rfl
  | stRegs x => exact checked_run h (by rw [storeEffect_rest])
  | ldRegs x => exact checked_run h (by rw [loadEffect_rest])
  | rnd x nn => cases h; exact .inr s.consumeRnd_run
  | _ => cases h; exact .inr rfl

/-- Settles O23: every instruction but `FX0A` ends running or halted, and `FX0A` sets the run state. -/
theorem onlyWaitForKeySuspends : Obligations.OnlyWaitForKeySuspends := by
  intro i s hr
  obtain ⟨t, ht⟩ := exec_exists_next i s
  refine ⟨t, ht, fun hw => ?_, ?_⟩
  · by_contra hi
    obtain hhalt | hkeep := exec_run_of_ne_ldVxK ht (not_exists.1 hi)
    · exact nomatch hw.symm.trans hhalt
    · exact nomatch hw.symm.trans (hkeep.trans hr)
  · rintro ⟨x, rfl⟩
    cases ht
    rfl

/-- Settles O44: the state that the instruction's meaning names. -/
theorem waitForKeySuspends : Obligations.WaitForKeySuspends := fun x _ => ⟨decode_encode (.ldVxK x), rfl⟩

/-! ### The completing `Wake` -/

/-- R194: `Wake` is enabled only while the Engine waits and a key is down. -/
theorem wake_of_not_enabled (h : s.run ≠ .waitKey ∨ s.keys = 0x0000#16) : wake s = s := by
  obtain ⟨k, hr, hk, -⟩ | ⟨-, hw⟩ := wake_cases s
  · have hnone : lowestKey s.keys = none := lowestKey_eq_none.2 (h.resolve_left (not_not.2 hr))
    exact nomatch hk.symm.trans hnone
  · exact hw

/-- R194: an enabled `Wake` writes the lowest pressed key and resumes. -/
theorem wake_of_lowestKey {k : Nat} (hr : s.run = .waitKey) (hk : lowestKey s.keys = some k) :
    wake s = { s.setV s.waitX (BitVec.ofNat 8 k) with run := .running } := by
  simp only [wake, hr, hk]

/-- R194: the Engine's step of a waiting machine is `Wake`. -/
theorem engineStep_of_waitKey (hr : s.run = .waitKey) : engineStep s = .next (wake s) := by
  simp only [engineStep, hr]

/-- Settles O45: the key below which none is pressed is the one that `Wake` writes. -/
theorem wakeReportsLowestKey : Obligations.WakeReportsLowestKey := by
  refine fun s => ⟨wake_of_not_enabled, engineStep_of_waitKey, fun k hk16 hr hdown hbelow => ?_⟩
  have hw := wake_of_lowestKey hr (lowestKey_eq_some.2 ⟨hk16, hdown, hbelow⟩)
  have hwritten : (wake s).getV s.waitX = BitVec.ofNat 8 k := by
    rw [hw]
    exact s.getV_setV_self s.waitX _
  refine ⟨by rw [hw], by rw [hw]; rfl, ?_, fun r hne => ?_⟩
  · rw [hwritten, BitVec.toNat_ofNat]
    omega
  · rw [hw]
    exact s.getV_setV_of_ne _ hne

/-! ### The skips on a key -/

/-- R190: the key that a skip tests is the one of its register's low nibble. -/
theorem keyDown_lowNibble (s : State) (x : Reg) : keyDown s (lowNibble s x) = s.keys.getLsbD ((s.getV x).toNat % 16) := by
  rw [keyDown, lowNibble_toNat]

/-- R130: a skip on a condition's negation has the two targets exchanged. -/
theorem State.skipIf_not (s : State) (c : Bool) : s.skipIf (!c) = { s with pc := if c then s.pc + 2#16 else s.pc + 4#16 } := by
  cases c
  · rfl
  · rfl

/-- Settles O43: a skip on the key of the low nibble, then one on its negation. -/
theorem skipOnKey : Obligations.SkipOnKey := by
  refine fun x s => ⟨decode_encode (.skp x), decode_encode (.sknp x), ?_, ?_⟩
  · rw [← keyDown_lowNibble]
    rfl
  · rw [← keyDown_lowNibble, ← State.skipIf_not]
    rfl

end Sys2Proof.Machine
end

section
/-! Proofs for the families 47_timers.md to 70_reset_and_hazards.md, the equations they share: what the agents' steps do, case by case
(R241, R284), and what a range-checked instruction answers (R69). -/

namespace Sys2Proof.Machine

variable {s : State}

/-! ### The timers -/

/-- R241: a decrement takes 1, and leaves 0 at 0. -/
theorem countDown_toNat (b : Byte) : (countDown b).toNat = b.toNat - 1 := by
  unfold countDown
  split
  · bv_omega
  · omega

theorem tick_of_halted (hr : s.run = .halted) : tick s = s := if_pos hr

theorem tick_of_ne_halted (hr : s.run ≠ .halted) : tick s = { s with dt := countDown s.dt, st := countDown s.st } := if_neg hr

/-- A tick does not read the accumulator. -/
theorem tick_withTdiv (s : State) (n : Nat) : tick { s with tdiv := n } = { tick s with tdiv := n } := by
  by_cases hr : s.run = .halted <;> simp [tick, hr]

/-! ### The clock edge -/

/-- R284: the accumulator of an edge without an event. -/
theorem divide_of_lt {clkHz rate acc : Nat} (h : acc + rate < clkHz) : divide clkHz rate acc = (acc + rate, false) :=
  if_neg (not_le.2 h)

/-- R284: the accumulator of an edge with an event. -/
theorem divide_of_le {clkHz rate acc : Nat} (h : clkHz ≤ acc + rate) : divide clkHz rate acc = (acc + rate - clkHz, true) :=
  if_pos h

/-- R284: the tick half of an edge. -/
theorem edgeTick_eq (s : State) : edgeTick s = if s.cfg.clkHz ≤ s.tdiv + 60
    then { tick s with tdiv := s.tdiv + 60 - s.cfg.clkHz } else { s with tdiv := s.tdiv + 60 } := by
  split
  · next h => simp only [edgeTick, divide_of_le h, if_true, tick_withTdiv]
  · next h => simp [edgeTick, divide_of_lt (not_le.1 h)]

/-- R284: the instruction half of an edge executes when the event falls and the machine runs. -/
theorem edgeExec_of_due (h : (divide s.cfg.clkHz s.cfg.ips s.idiv).2 = true) (hr : s.run = .running) :
    edgeExec s = execStep { s with idiv := (divide s.cfg.clkHz s.cfg.ips s.idiv).1 } := if_pos ⟨h, hr⟩

/-- R284: otherwise it moves the accumulator only. -/
theorem edgeExec_of_not_due (h : ¬ ((divide s.cfg.clkHz s.cfg.ips s.idiv).2 = true ∧ s.run = .running)) :
    edgeExec s = .next { s with idiv := (divide s.cfg.clkHz s.cfg.ips s.idiv).1 } := if_neg h

theorem engineStep_of_halted (hr : s.run = .halted) : engineStep s = .next s := by
  simp only [engineStep, hr]

theorem clockEdge_of_halted (hr : s.run = .halted) : clockEdge s = .next s := if_pos hr

/-- R284: the order of the parts of an edge. -/
theorem clockEdge_of_ne_halted (hr : s.run ≠ .halted) :
    clockEdge s = andThen (edgeExec (edgeTick s)) (fun t => .next (wake t)) := if_neg hr

/-! ### Range-checked instructions -/

/-- R69: a data range that passes 4095 takes `MemBounds` with the lowest address out of bounds. -/
theorem checked_of_outOfRange {w : Word} {op : FaultOp} {n : Nat} {t : State} (h : 0 < n ∧ 4095 < s.i.toNat + n - 1) :
    checked s w op n t = .next (faulted s .memBounds w op (max s.i.toNat 4096)) := if_pos ((outOfRange_iff s n).2 h)

/-- R69: a data range inside memory lets the instruction have its effect. -/
theorem checked_of_inRange {w : Word} {op : FaultOp} {n : Nat} {t : State} (h : ¬ (0 < n ∧ 4095 < s.i.toNat + n - 1)) :
    checked s w op n t = .next t := if_neg (mt (outOfRange_iff s n).1 h)

end Sys2Proof.Machine
end

section
/-! Proofs for the family 60_exceptions.md, the frame slot: no step can tell whether a frame was taken (R249). -/

namespace Sys2Proof.Machine

variable {t u : State} {o p : Result} {b : Bool}

/-- The state as it would be with another `fc_pending`. -/
def State.withPending (s : State) (b : Bool) : State := { s with fcPending := b }

/-- Two answers that no program can tell apart (R249): next states that differ in `fc_pending` only, or the same fault. -/
def SameButPending : Result → Result → Prop
  | .next t, .next u => ∃ c, u = t.withPending c
  | .fault r, .fault q => q = r
  | _, _ => False

theorem SameButPending.exists_eq_next (h : SameButPending (.next t) p) : ∃ c, p = .next (t.withPending c) := by
  cases p with
  | next u => exact h.imp fun c hu => congrArg _ hu
  | fault | refused => exact h.elim

theorem SameButPending.eq_fault {r : Fault} (h : SameButPending (.fault r) p) : p = .fault r := by
  cases p with
  | fault q => exact congrArg _ h
  | next | refused => exact h.elim

/-- Answers that programs cannot tell apart stay so when the same step follows both. -/
theorem SameButPending.andThen {f : State → Result} (h : SameButPending o p)
    (hf : ∀ s b, SameButPending (f s) (f (s.withPending b))) : SameButPending (andThen o f) (andThen p f) := by
  cases o with
  | next t =>
    obtain ⟨c, rfl⟩ := h.exists_eq_next
    exact hf t c
  | fault r =>
    rw [h.eq_fault]
    rfl
  | refused => exact h.elim

/-! ### What the operations make of `fc_pending` -/

theorem State.consumeRnd_withPending (s : State) (b : Bool) : (s.withPending b).consumeRnd = s.consumeRnd.withPending b := by
  cases hr : s.rnd <;> simp only [State.consumeRnd, State.withPending, hr]

theorem storeRegs_withPending (s : State) (b : Bool) (n : Nat) :
    storeRegs (s.withPending b) n = (storeRegs s n).withPending b := by
  induction n with
  | zero => rfl
  | succ n ih => rw [storeRegs_succ, storeRegs_succ, ih]; rfl

theorem loadRegs_withPending (s : State) (b : Bool) (n : Nat) :
    loadRegs (s.withPending b) n = (loadRegs s n).withPending b := by
  induction n with
  | zero => rfl
  | succ n ih => rw [loadRegs_succ, loadRegs_succ, ih]; rfl

theorem incIndex_withPending (s : State) (b : Bool) (n : Nat) :
    incIndex (s.withPending b) n = (incIndex s n).withPending b := by
  cases hq : s.cfg.qIncI <;> simp [incIndex, State.withPending, hq]

theorem tick_withPending (s : State) (b : Bool) : tick (s.withPending b) = (tick s).withPending b := by
  by_cases hr : s.run = .halted <;> simp [tick, State.withPending, hr]

theorem edgeTick_withPending (s : State) (b : Bool) : edgeTick (s.withPending b) = (edgeTick s).withPending b := by
  cases hd : (divide s.cfg.clkHz 60 s.tdiv).2
  · simp [edgeTick, State.withPending, hd]
  · simpa [edgeTick, State.withPending, hd] using tick_withPending { s with tdiv := (divide s.cfg.clkHz 60 s.tdiv).1 } b

theorem wake_withPending (s : State) (b : Bool) : wake (s.withPending b) = (wake s).withPending b := by
  obtain ⟨k, hr, hk, hw⟩ | ⟨hne, hw⟩ := wake_cases s
  · rw [hw, wake_of_lowestKey (s := s.withPending b) hr hk]
    rfl
  · rw [hw, wake_of_not_enabled (s := s.withPending b) (hne.imp_right lowestKey_eq_none.1)]

/-! ### What the steps make of it -/

/-- A range-checked instruction answers alike when its effect does: the check reads `I` only. -/
theorem checked_sameButPending {s : State} {w : Word} {op : FaultOp} {n : Nat} (h : SameButPending (.next t) (.next u)) :
    SameButPending (checked s w op n t) (checked (s.withPending b) w op n u) := by
  have hrange : outOfRange (s.withPending b) n = outOfRange s n := rfl
  unfold checked
  rw [hrange]
  split
  · exact ⟨b, rfl⟩
  · exact h

/-- R249: no instruction's effect reads `fc_pending`; a publish writes it, and every other effect keeps it. -/
theorem exec_sameButPending (i : Instr) (s : State) (b : Bool) : SameButPending (exec i s) (exec i (s.withPending b)) := by
  cases i with
  | cls => exact ⟨true, rfl⟩
  | drw => exact checked_sameButPending ⟨true, rfl⟩
  | ret =>
    cases hl : s.stack.getLast? with
    | none =>
      rw [exec_ret_of_getLast?_eq_none hl, exec_ret_of_getLast?_eq_none (s := s.withPending b) hl]
      exact ⟨b, rfl⟩
    | some w =>
      rw [exec_ret_of_getLast?_eq_some hl, exec_ret_of_getLast?_eq_some (s := s.withPending b) hl]
      exact ⟨b, rfl⟩
  | call nnn =>
    by_cases hsp : s.sp = s.cfg.stackDepth
    · rw [exec_call_of_sp_eq hsp, exec_call_of_sp_eq (s := s.withPending b) hsp]
      exact ⟨b, rfl⟩
    · rw [exec_call_of_sp_ne hsp, exec_call_of_sp_ne (s := s.withPending b) hsp]
      exact ⟨b, rfl⟩
  | rnd x nn =>
    refine ⟨b, ?_⟩
    rw [State.consumeRnd_withPending]
    rfl
  | ldB => exact checked_sameButPending ⟨b, rfl⟩
  | stRegs =>
    refine checked_sameButPending ⟨b, ?_⟩
    rw [storeRegs_withPending, incIndex_withPending]
    rfl
  | ldRegs =>
    refine checked_sameButPending ⟨b, ?_⟩
    rw [loadRegs_withPending, incIndex_withPending]
    rfl
  | _ => exact ⟨b, rfl⟩

theorem execStep_sameButPending (s : State) (b : Bool) : SameButPending (execStep s) (execStep (s.withPending b)) := by
  cases hf : fetch s with
  | error a =>
    rw [execStep_of_fetch_error hf, execStep_of_fetch_error (s := s.withPending b) hf]
    exact ⟨b, rfl⟩
  | ok op =>
    cases hd : decode op with
    | error e =>
      rw [execStep_of_decode_error hf hd, execStep_of_decode_error (s := s.withPending b) hf hd]
      exact ⟨b, rfl⟩
    | ok i =>
      rw [execStep_of_decode hf hd, execStep_of_decode (s := s.withPending b) hf hd]
      exact exec_sameButPending i s b

theorem engineStep_sameButPending (s : State) (b : Bool) : SameButPending (engineStep s) (engineStep (s.withPending b)) := by
  cases hr : s.run with
  | running =>
    rw [engineStep_of_running hr, engineStep_of_running (s := s.withPending b) hr]
    exact execStep_sameButPending s b
  | waitKey =>
    rw [engineStep_of_waitKey hr, engineStep_of_waitKey (s := s.withPending b) hr]
    exact ⟨b, wake_withPending s b⟩
  | halted =>
    rw [engineStep_of_halted hr, engineStep_of_halted (s := s.withPending b) hr]
    exact ⟨b, rfl⟩

theorem edgeExec_sameButPending (s : State) (b : Bool) : SameButPending (edgeExec s) (edgeExec (s.withPending b)) := by
  by_cases h : (divide s.cfg.clkHz s.cfg.ips s.idiv).2 = true ∧ s.run = .running
  · rw [edgeExec_of_due h.1 h.2, edgeExec_of_due (s := s.withPending b) h.1 h.2]
    exact execStep_sameButPending { s with idiv := (divide s.cfg.clkHz s.cfg.ips s.idiv).1 } b
  · rw [edgeExec_of_not_due h, edgeExec_of_not_due (s := s.withPending b) h]
    exact ⟨b, rfl⟩

theorem clockEdge_sameButPending (s : State) (b : Bool) : SameButPending (clockEdge s) (clockEdge (s.withPending b)) := by
  by_cases hr : s.run = .halted
  · rw [clockEdge_of_halted hr, clockEdge_of_halted (s := s.withPending b) hr]
    exact ⟨b, rfl⟩
  · rw [clockEdge_of_ne_halted hr, clockEdge_of_ne_halted (s := s.withPending b) hr, edgeTick_withPending]
    exact (edgeExec_sameButPending (edgeTick s) b).andThen fun t c => ⟨c, wake_withPending t c⟩

/-- R249: every agent's step; `Take` and `Reset` clear `fc_pending`. -/
theorem perform_sameButPending (a : AgentStep) (s : State) (b : Bool) :
    SameButPending (perform a s) (perform a (s.withPending b)) := by
  cases a with
  | engine => exact engineStep_sameButPending s b
  | tick => exact ⟨b, tick_withPending s b⟩
  | setKeys k => exact ⟨b, rfl⟩
  | take => exact ⟨false, rfl⟩
  | reset c image => exact ⟨(resetTo c image s).fcPending, rfl⟩
  | clockEdge => exact clockEdge_sameButPending s b

theorem step_of_halted (hr : s.run = .halted) (hs : s.script = []) : step s = .fault (.halted s.faultKind) := by
  simp [step, hr, hs]

theorem step_sameButPending (s : State) (b : Bool) : SameButPending (step s) (step (s.withPending b)) := by
  cases hs : s.script with
  | cons a rest =>
    rw [step_of_script_cons hs, step_of_script_cons (s := s.withPending b) hs]
    exact perform_sameButPending a { s with script := rest } b
  | nil =>
    by_cases hr : s.run = .halted
    · rw [step_of_halted hr hs, step_of_halted (s := s.withPending b) hr hs]
      rfl
    · rw [step_of_script_nil hs hr, step_of_script_nil (s := s.withPending b) hs hr]
      exact engineStep_sameButPending s b

/-- Settles O25: no step reads `fc_pending`, so steps from states that differ in it alone answer alike. -/
theorem takeIsInvisibleToPrograms : Obligations.TakeIsInvisibleToPrograms := by
  refine ⟨fun s => ⟨rfl, rfl⟩, fun s b => ⟨fun t ht => ?_, fun r hr => ?_, fun r hr => ?_⟩⟩
  · exact (ht ▸ step_sameButPending s b).exists_eq_next
  · exact (hr ▸ step_sameButPending s b).eq_fault
  · have h := step_sameButPending s b
    rw [hr] at h
    exact h.elim

end Sys2Proof.Machine
end

section
/-! Proofs for the family 47_timers.md: the instructions that read and set the timers (R201 to R203). -/

namespace Sys2Proof.Machine

variable {s : State}

/-- R45, R203: `sound_active` of a machine that is not halted is `ST != 0`. -/
theorem soundActive_iff_of_ne_halted (hr : s.run ≠ .halted) : s.soundActive = true ↔ s.st.toNat ≠ 0 := by
  have hzero : s.st = 0x00#8 ↔ s.st.toNat = 0 := BitVec.toNat_inj.symm
  simp [State.soundActive, hr, hzero]

/-- Settles O46: the read is one register write, and each of the others one timer write. -/
theorem timerReadsAndWrites : Obligations.TimerReadsAndWrites := by
  refine fun x s => ⟨decode_encode (.ldVxDt x), decode_encode (.ldDtVx x), decode_encode (.ldStVx x),
    exec_setV_advance rfl, rfl, (s.setSt (s.getV x)).advance, rfl, rfl, fun hr => ?_⟩
  exact soundActive_iff_of_ne_halted (s := (s.setSt (s.getV x)).advance) (hr ▸ nofun)

end Sys2Proof.Machine
end

section
/-! Proofs for the family 48_memory_transfer.md: the decimal store (R211), the bulk store (R212), the bulk load (R213), and the two
bulk transfers one after the other (R214). -/

namespace Sys2Proof.Machine

variable {s : State} {x : Reg}

/-! ### The decimal store -/

/-- R211: the digits of a byte are digits, so they keep their value as bytes. -/
theorem hundreds_toNat (b : Byte) : (hundreds b).toNat = b.toNat / 100 := by
  rw [hundreds, BitVec.toNat_ofNat]
  omega

theorem tens_toNat (b : Byte) : (tens b).toNat = b.toNat / 10 % 10 := by
  rw [tens, BitVec.toNat_ofNat]
  omega

theorem ones_toNat (b : Byte) : (ones b).toNat = b.toNat % 10 := by
  rw [ones, BitVec.toNat_ofNat]
  omega

/-- Settles O53: the range check of three bytes, and the three writes of the digits. -/
theorem storeDecimalDigits : Obligations.StoreDecimalDigits := by
  refine fun x s => ⟨decode_encode (.ldB x), fun h => checked_of_outOfRange (by omega), fun h => ?_⟩
  have hbytes (a : Nat) := storeDigits_byteAt s (s.getV x) a (by omega)
  refine ⟨(storeDigits s (s.getV x)).advance, checked_of_inRange (by omega), by rw [storeDigits_rest]; rfl, ?_, ?_, ?_,
    fun a ha => (State.advance_byteAt ..).trans (storeDigits_byteAt_of_ne s _ a ha)⟩
  · rw [State.advance_byteAt, hbytes, if_neg (by omega), if_neg (by omega), if_pos rfl, hundreds_toNat]
  · rw [State.advance_byteAt, hbytes, if_neg (by omega), if_pos rfl, tens_toNat]
  · rw [State.advance_byteAt, hbytes, if_pos rfl, ones_toNat]

/-! ### The bulk transfers -/

/-- R212, R213: a bulk transfer advances `I` modulo 65536 under `Q_INC_I`. -/
theorem incIndex_i_toNat (s : State) (n : Nat) :
    (incIndex s n).i.toNat = if s.cfg.qIncI = true then (s.i.toNat + n) % 65536 else s.i.toNat := by
  rw [incIndex_i]
  split
  · exact BitVec.toNat_ofNat ..
  · rfl

/-- R212: inside memory a bulk store leaves `V[r]` at `I + r`. -/
theorem storeRegs_byteAt_of_le {r : Reg} (h : s.i.toNat + x.toNat ≤ 4095) (hr : r.toNat ≤ x.toNat) :
    (storeRegs s (x.toNat + 1)).byteAt (s.i.toNat + r.toNat) = s.getV r := by
  rw [storeRegs_byteAt _ _ _ (by omega), if_pos (by omega), Nat.add_sub_cancel_left, BitVec.ofNat_toNat, BitVec.setWidth_eq]

/-- R213: a bulk load leaves the byte at `I + r` in `V[r]`. -/
theorem loadRegs_getV_of_le {r : Reg} (hr : r.toNat ≤ x.toNat) :
    (loadRegs s (x.toNat + 1)).getV r = s.byteAt (s.i.toNat + r.toNat) := by
  rw [loadRegs_getV _ _ _ x.isLt, if_pos (by omega)]

/-- Settles O54: the range check of `X + 1` bytes, and the bytes that the store leaves. -/
theorem storeRegisters : Obligations.StoreRegisters := by
  refine fun x s => ⟨decode_encode (.stRegs x), fun h => checked_of_outOfRange (by omega), fun h => ?_⟩
  refine ⟨_, checked_of_inRange (by omega), by rw [storeEffect_rest], ?_, fun r hr => ?_, fun a ha => ?_⟩
  · rw [storeEffect_rest]
    exact incIndex_i_toNat s _
  · exact (incIndex_byteAt ..).trans (storeRegs_byteAt_of_le h hr)
  · exact (incIndex_byteAt ..).trans (storeRegs_byteAt_of_ne s _ a ha)

/-- Settles O55: the range check of `X + 1` bytes, and the registers that the load leaves. -/
theorem loadRegisters : Obligations.LoadRegisters := by
  refine fun x s => ⟨decode_encode (.ldRegs x), fun h => checked_of_outOfRange (by omega), fun h => ?_⟩
  refine ⟨_, checked_of_inRange (by omega), by rw [loadEffect_rest], ?_, fun r hr => ?_, fun r hr => ?_⟩
  · rw [loadEffect_rest]
    exact incIndex_i_toNat s _
  · exact (incIndex_getV ..).trans (loadRegs_getV_of_le hr)
  · exact (incIndex_getV ..).trans (loadRegs_getV_of_lt hr)

/-! ### A store and then a load -/

theorem execAll_pair {i j : Instr} {t u : State} (hi : exec i s = .next u) (hj : exec j u = .next t) :
    execAll [i, j] s = .next t := by
  rw [execAll_cons_of_exec _ hi, execAll_cons_of_exec _ hj, execAll]

/-- R214: with `I` kept, the load reads back the bytes that the store wrote. -/
theorem execAll_stRegs_ldRegs_of_not_qIncI (hq : s.cfg.qIncI = false) (h : s.i.toNat + x.toNat ≤ 4095) :
    ∃ t, execAll [.stRegs x, .ldRegs x] s = .next t ∧ t = { s with mem := t.mem, pc := s.pc + 4#16 } := by
  obtain ⟨u, hu, huframe, hui, hstored, -⟩ := (storeRegisters x s).2.2 h
  have hucfg : u.cfg = s.cfg := by rw [huframe]
  rw [hq, if_neg nofun] at hui
  obtain ⟨t, ht, htframe, hti, hloaded, hkept⟩ := (loadRegisters x u).2.2 (hui.symm ▸ h)
  rw [hucfg, hq, if_neg nofun, hui] at hti
  have hv : t.v = s.v := State.v_ext fun r => by
    by_cases hr : r.toNat ≤ x.toNat
    · rw [hloaded r hr, hui, hstored r hr]
    · rw [hkept r (not_le.1 hr), huframe]
      rfl
  have hi : t.i = s.i := BitVec.eq_of_toNat_eq hti
  refine ⟨t, execAll_pair hu ht, ?_⟩
  rw [htframe, hv, hi, huframe, BitVec.add_assoc]
  rfl

/-- R214: with `I` advanced past the block, the load reads what lay behind it. -/
theorem execAll_stRegs_ldRegs_of_qIncI (hq : s.cfg.qIncI = true) (h : s.i.toNat + 2 * (x.toNat + 1) ≤ 4096) :
    ∃ t, execAll [.stRegs x, .ldRegs x] s = .next t
      ∧ (∀ r : Reg, r.toNat ≤ x.toNat → t.getV r = s.byteAt (s.i.toNat + x.toNat + 1 + r.toNat))
      ∧ ∀ r : Reg, x.toNat < r.toNat → t.getV r = s.getV r := by
  obtain ⟨u, hu, huframe, hui, -, hbehind⟩ := (storeRegisters x s).2.2 (by omega)
  rw [if_pos hq, Nat.mod_eq_of_lt (by omega)] at hui
  obtain ⟨t, ht, -, -, hloaded, hkept⟩ := (loadRegisters x u).2.2 (by omega)
  refine ⟨t, execAll_pair hu ht, fun r hr => ?_, fun r hr => ?_⟩
  · rw [hloaded r hr, hui, hbehind _ (by omega)]
  · rw [hkept r hr, huframe]
    rfl

/-- Settles O56: the two values of `Q_INC_I`. -/
theorem storeThenLoadRegisters : Obligations.StoreThenLoadRegisters := fun _ _ =>
  ⟨execAll_stRegs_ldRegs_of_not_qIncI, execAll_stRegs_ldRegs_of_qIncI⟩

end Sys2Proof.Machine
end

section
/-! Proofs for the family 60_exceptions.md: when an instruction faults (R221, R227, R230), the load fault (R226), the halted state
(R228), and the ticks (R241 to R244). -/

namespace Sys2Proof.Machine

variable {s t : State} {i : Instr}

/-! ### Faults -/

/-- The fault registers (R42). -/
def State.faultRegs (s : State) : FaultKind × Word × Word × FaultOp × BitVec 17 :=
  (s.faultKind, s.faultPc, s.faultOpcode, s.faultOp, s.faultAddr)

/-- R221, R230: an instruction whose execute check fails takes a fault, which reports the instruction's own word. -/
theorem exec_of_faultsOn (h : faultsOn s i) :
    ∃ kind op addr, kind ≠ .none ∧ exec i s = .next (faulted s kind (encode i) op addr) := by
  cases i with
  | ret =>
    have hl : s.stack.getLast? = none := List.getLast?_eq_none_iff.2 (List.length_eq_zero_iff.1 h)
    exact ⟨.stackUnderflow, _, _, nofun, exec_ret_of_getLast?_eq_none hl⟩
  | call nnn => exact ⟨.stackOverflow, _, _, nofun, exec_call_of_sp_eq h⟩
  | drw | ldB | stRegs | ldRegs => exact ⟨.memBounds, _, _, nofun, checked_of_outOfRange h⟩
  | _ => exact absurd h.1 (Nat.lt_irrefl 0)

/-- R227: an instruction whose execute check passes keeps the fault registers, and goes on or waits for a key. -/
theorem exec_of_not_faultsOn (he : exec i s = .next t) (h : ¬ faultsOn s i) :
    t.faultRegs = s.faultRegs ∧ (t.run = s.run ∨ t.run = .waitKey) := by
  cases i with
  | ret =>
    obtain ⟨hs, -⟩ | ⟨w, -, rfl⟩ := execRet_cases he
    · exact absurd (congrArg List.length hs) h
    · exact ⟨rfl, .inl rfl⟩
  | call nnn =>
    obtain ⟨hs, -⟩ | ⟨-, rfl⟩ := execCall_cases he
    · exact absurd hs h
    · exact ⟨rfl, .inl rfl⟩
  | drw => obtain rfl := eq_of_checked he h; exact ⟨rfl, .inl rfl⟩
  | ldB => obtain rfl := eq_of_checked he h; rw [storeDigits_rest]; exact ⟨rfl, .inl rfl⟩
  | stRegs => obtain rfl := eq_of_checked he h; rw [storeEffect_rest]; exact ⟨rfl, .inl rfl⟩
  | ldRegs => obtain rfl := eq_of_checked he h; rw [loadEffect_rest]; exact ⟨rfl, .inl rfl⟩
  | rnd => cases he; rw [rndEffect_rest]; exact ⟨rfl, .inl rfl⟩
  | ldVxK => cases he; exact ⟨rfl, .inr rfl⟩
  | _ => cases he; exact ⟨rfl, .inl rfl⟩

/-- Settles O10: the check fails or passes. -/
theorem faultsArePreciseAndExact : Obligations.FaultsArePreciseAndExact := by
  intro i s
  by_cases h : faultsOn s i
  · obtain ⟨kind, op, addr, hkind, he⟩ := exec_of_faultsOn h
    exact ⟨_, he, fun _ => ⟨kind, op, addr, hkind, rfl⟩, absurd h, absurd h⟩
  · obtain ⟨t, he⟩ := exec_exists_next i s
    obtain ⟨hregs, hrun⟩ := exec_of_not_faultsOn he h
    refine ⟨t, he, (absurd · h), fun _ hr => ?_, fun _ => by simpa [State.faultRegs] using hregs⟩
    obtain hrun | hrun := hrun
    · rw [hrun, hr]
      nofun
    · rw [hrun]
      nofun

/-! ### The load fault -/

/-- R226: the reset values of an empty image, whatever the configuration. `LOAD_ADDR`, which may lie outside memory, is the reset
value of `PC` and places no byte; the rest is as with `LOAD_ADDR` 0. -/
theorem initial_nil_hasResetValues (c : Config) (s : State) : HasResetValues c [] s (initial c [] s) :=
  { initial_hasResetValues (c := { c with loadAddr := 0#16 }) (image := []) s (Nat.zero_le 4096) with
    pc := rfl
    mem := fun a _ => by rw [dif_neg (by simp)]; rfl
    cfg := rfl }

/-- R228: a fault taken after a reset leaves the reset values. -/
theorem HasResetValues.raise {c : Config} {image : List Byte} {kind : FaultKind} {w : Word} {op : FaultOp} {a : Nat}
    (h : HasResetValues c image s t) : HasResetValues c image s (raise kind w op a t) :=
  { h with }

/-- R226: a reset that the load check rejects ends in the load fault. -/
theorem resetTo_of_rejected {c : Config} {image : List Byte} (s : State)
    (h : c.legal = false ∨ 4096 < c.loadAddr.toNat + image.length) :
    resetTo c image s = raise .loadFault 0x0000#16 .none 4096 (initial c [] s) := by
  obtain ⟨⟨hl, hi⟩, -⟩ | ⟨-, h⟩ := resetTo_cases c image s
  · simp [Config.imageFits, hl] at hi h
    omega
  · exact h

/-- R8: memory from `LOAD_ADDR` on lies behind the font, and starts inside the address space. -/
theorem fontEnd_le_of_legal {c : Config} (h : c.legal = true) :
    c.fontBase.toNat + 80 ≤ c.loadAddr.toNat ∧ c.loadAddr.toNat ≤ 0x600 := by
  have ha : c.loadAddr.toNat ≤ 0x600 := by obtain ha | ha := loadAddr_of_legal h <;> simp [ha]
  simp only [Config.legal, Bool.and_eq_true, decide_eq_true_eq] at h
  exact ⟨h.2, ha⟩

/-- R273: with an empty image, the bytes behind the font are 0. -/
theorem initial_nil_byteAt {c : Config} {a : Nat} (s : State) (h : c.fontBase.toNat + 80 ≤ a) :
    (initial c [] s).byteAt a = 0x00#8 :=
  if_neg (show ¬ (c.fontBase.toNat ≤ a ∧ a < c.fontBase.toNat + 80) by omega)

/-- R226: the first fetch after a reset with an empty image reads 0x0000. -/
theorem fetch_initial_nil {c : Config} (s : State) (h : c.legal = true) : fetch (initial c [] s) = .ok 0x0000#16 := by
  obtain ⟨hfont, haddr⟩ := fontEnd_le_of_legal h
  have hpc : (initial c [] s).pc = c.loadAddr := rfl
  rw [fetch_ok_iff, hpc, initial_nil_byteAt s hfont, initial_nil_byteAt s (by omega)]
  exact ⟨by omega, rfl⟩

/-- Settles O14: the load check fails; it passes at the exact fit; and it passes with no image, when the first word read is no
instruction. -/
theorem loadFaultHaltsReset : Obligations.LoadFaultHaltsReset := by
  refine ⟨fun c image s h => ?_, fun c image s hl hlen => ?_, fun c s hl => ?_⟩
  · exact ⟨_, congrArg Host.Outcome.next (resetTo_of_rejected s h), (initial_nil_hasResetValues c s).raise, rfl, rfl, rfl, rfl,
      rfl, rfl⟩
  · obtain ⟨-, haddr⟩ := fontEnd_le_of_legal hl
    exact ⟨_, congrArg Host.Outcome.next (resetTo_of_legal s hl (by omega)), rfl⟩
  · obtain ⟨-, haddr⟩ := fontEnd_le_of_legal hl
    refine ⟨_, congrArg Host.Outcome.next (resetTo_of_legal s hl (by simp; omega)), ?_⟩
    exact (engineStep_of_running rfl).trans (execStep_of_decode_error (fetch_initial_nil s hl) rfl)

/-! ### The halted state -/

/-- Settles O11: every agent's step but `Reset`, in `HALTED`. -/
theorem haltedIsAbsorbing : Obligations.HaltedIsAbsorbing := by
  refine ⟨raise_eq_faulted, by decide, by decide, fun s hr => ?_⟩
  have hsound : s.soundActive = false := by simp [State.soundActive, hr]
  exact ⟨beq_iff_eq.2 hr, hsound, engineStep_of_halted hr, congrArg _ (tick_of_halted hr), clockEdge_of_halted hr,
    fun _ => rfl, rfl⟩

/-- Settles O12: the empty script leaves the step to the Engine, which is halted. -/
theorem haltedMachineHasNoStep : Obligations.HaltedMachineHasNoStep := fun _ => step_of_halted

/-! ### Ticks -/

/-- Settles O47: halted or not. -/
theorem tickCountsDown : Obligations.TickCountsDown := by
  refine fun s => ⟨tick s, rfl, tick_of_halted, fun hr => ?_⟩
  rw [tick_of_ne_halted hr]
  exact ⟨rfl, countDown_toNat s.dt, countDown_toNat s.st⟩

/-- Settles O48: by induction on the number of ticks; a tick keeps the run state. -/
theorem ticksCountToZero : Obligations.TicksCountToZero := by
  intro n s hr
  induction n generalizing s with
  | zero => exact ⟨rfl, rfl, rfl⟩
  | succ n ih =>
    obtain ⟨hdt, hst, hframe⟩ := ih (tick s) (by rwa [tick_run])
    rw [tick_of_ne_halted hr] at hdt hst hframe
    rw [countDown_toNat] at hdt hst
    rw [ticks, tick_of_ne_halted hr]
    exact ⟨by omega, by omega, hframe⟩

/-- Settles O49: the two orders of a tick and an instruction. -/
theorem timerWriteAgainstTick : Obligations.TimerWriteAgainstTick := by
  intro x s hr
  refine ⟨⟨_, rfl, ?_⟩, ⟨_, rfl, tick_getV s x⟩, ⟨_, rfl, s.getV_setV_self x _⟩, ⟨_, rfl, ?_⟩⟩
  · rw [tick_of_ne_halted (s := (s.setDt (s.getV x)).advance) hr]
    exact countDown_toNat _
  · rw [State.advance_getV, State.getV_setV_self, tick_of_ne_halted hr]
    exact countDown_toNat _

end Sys2Proof.Machine
end

section
/-! Proofs for the family 70_reset_and_hazards.md: the order of a clock edge, and the events that its accumulators let fall (R284,
R242, R243). -/

namespace Sys2Proof.Machine

variable {s : State}

/-! ### The order of an edge -/

/-- R284: the tick half of an edge writes the timers and their accumulator only. -/
theorem edgeTick_rest (s : State) :
    edgeTick s = { s with dt := (edgeTick s).dt, st := (edgeTick s).st, tdiv := (edgeTick s).tdiv } := by
  obtain ⟨-, h⟩ | ⟨-, h⟩ := edgeTick_cases s <;> rw [h]
  by_cases hr : s.run = .halted <;> simp [tick, hr]

@[simp] theorem edgeTick_run (s : State) : (edgeTick s).run = s.run := by rw [edgeTick_rest]

@[simp] theorem edgeTick_keys (s : State) : (edgeTick s).keys = s.keys := by rw [edgeTick_rest]

theorem divide_ips_edgeTick (s : State) : divide (edgeTick s).cfg.clkHz (edgeTick s).cfg.ips (edgeTick s).idiv =
    divide s.cfg.clkHz s.cfg.ips s.idiv := by
  rw [edgeTick_rest]

/-- R284: an edge of a machine that is not halted and on which no `Exec` falls moves the accumulators, ticks when it is due, and
wakes the machine if it can. -/
theorem clockEdge_of_no_exec (hr : s.run ≠ .halted) (h : ¬ ((divide s.cfg.clkHz s.cfg.ips s.idiv).2 = true ∧ s.run = .running)) :
    clockEdge s = .next (wake { edgeTick s with idiv := (divide s.cfg.clkHz s.cfg.ips s.idiv).1 }) := by
  rw [clockEdge_of_ne_halted hr, edgeExec_of_not_due (by rwa [divide_ips_edgeTick, edgeTick_run]), divide_ips_edgeTick]
  rfl

/-- R284: an edge of a running machine on which an `Exec` falls. -/
theorem clockEdge_of_exec (hr : s.run = .running) (h : (divide s.cfg.clkHz s.cfg.ips s.idiv).2 = true) :
    clockEdge s = andThen (execStep { edgeTick s with idiv := (divide s.cfg.clkHz s.cfg.ips s.idiv).1 })
      (fun t => .next (wake t)) := by
  rw [clockEdge_of_ne_halted (hr ▸ nofun), edgeExec_of_due (by rwa [divide_ips_edgeTick]) (by rwa [edgeTick_run]),
    divide_ips_edgeTick]

/-- Settles O51: the tick half is `u`; then the instruction event falls or not. -/
theorem clockEdgeOrder : Obligations.ClockEdgeOrder := by
  intro s u hu
  rw [← edgeTick_eq] at hu
  subst hu
  refine ⟨fun hr => ⟨fun hlt => ?_, fun hle => ?_⟩, fun hr => ?_⟩
  · rw [perform, clockEdge_of_no_exec (hr ▸ nofun) (by simp [divide_of_lt hlt]), divide_of_lt hlt]
    rw [wake_of_not_enabled (.inl (by simp [hr]))]
  · rw [perform, clockEdge_of_exec hr (by rw [divide_of_le hle]), divide_of_le hle]
  · rw [perform, clockEdge_of_no_exec (hr ▸ nofun) (by simp [hr])]
    simp only [divide, apply_ite Prod.fst]

/-! ### The events of an accumulator -/

/-- R284: from an accumulator below `CLK_HZ`, an edge is one step of a division with remainder. -/
theorem divide_eq {clkHz rate acc : Nat} (ha : acc < clkHz) (hr : rate ≤ clkHz) :
    (divide clkHz rate acc).1 = (acc + rate) % clkHz
      ∧ (if (divide clkHz rate acc).2 = true then 1 else 0) = (acc + rate) / clkHz := by
  obtain h | h := lt_or_ge (acc + rate) clkHz
  · rw [divide_of_lt h]
    exact ⟨(Nat.mod_eq_of_lt h).symm, (Nat.div_eq_of_lt h).symm⟩
  · have hlt : acc + rate - clkHz < clkHz := by omega
    rw [divide_of_le h, Nat.mod_eq_sub_mod h, Nat.mod_eq_of_lt hlt, Nat.div_eq_sub_div (by omega) h, Nat.div_eq_of_lt hlt]
    exact ⟨rfl, rfl⟩

/-- R284: `n` edges are `n` steps of a division with remainder. -/
theorem divideRun_eq {clkHz rate acc : Nat} (n : Nat) (ha : acc < clkHz) (hr : rate ≤ clkHz) :
    divideRun clkHz rate n acc = ((acc + rate * n) % clkHz, (acc + rate * n) / clkHz) := by
  induction n generalizing acc with
  | zero => simp [divideRun, Nat.mod_eq_of_lt ha, Nat.div_eq_of_lt ha]
  | succ n ih =>
    obtain ⟨hacc, hevent⟩ := divide_eq ha hr
    have hclk : 0 < clkHz := by omega
    have hsum : acc + rate * (n + 1) = (acc + rate) % clkHz + rate * n + clkHz * ((acc + rate) / clkHz) := by
      have := Nat.mod_add_div (acc + rate) clkHz
      rw [Nat.mul_succ]
      omega
    rw [divideRun, hevent, hacc, ih (Nat.mod_lt _ hclk), hsum, Nat.add_mul_mod_self_left, Nat.add_mul_div_left _ _ hclk]

/-- Settles O50: from an accumulator of 0. -/
theorem dividerNeverDrifts : Obligations.DividerNeverDrifts := fun clkHz rate n hclk hr => by
  rw [divideRun_eq n hclk hr, Nat.zero_add]

/-! ### A waiting machine -/

/-- R241, R284: while the machine is not halted, the tick half of an edge takes its event, if one falls, from each timer. -/
theorem edgeTick_timers (hr : s.run ≠ .halted) :
    (edgeTick s).dt.toNat = s.dt.toNat - (if (divide s.cfg.clkHz 60 s.tdiv).2 = true then 1 else 0)
      ∧ (edgeTick s).st.toNat = s.st.toNat - (if (divide s.cfg.clkHz 60 s.tdiv).2 = true then 1 else 0)
      ∧ (edgeTick s).tdiv = (divide s.cfg.clkHz 60 s.tdiv).1 := by
  obtain ⟨hd, h⟩ | ⟨hd, h⟩ := edgeTick_cases s
  · rw [h, hd, tick_of_ne_halted (s := { s with tdiv := (divide s.cfg.clkHz 60 s.tdiv).1 }) hr]
    exact ⟨countDown_toNat s.dt, countDown_toNat s.st, rfl⟩
  · rw [h, hd]
    exact ⟨rfl, rfl, rfl⟩

/-- R243, R284: an edge of a machine that waits with no key down is its tick half, and moves `idiv`. -/
theorem clockEdge_of_no_key (hr : s.run = .waitKey) (hk : s.keys = 0x0000#16) :
    clockEdge s = .next { edgeTick s with idiv := (divide s.cfg.clkHz s.cfg.ips s.idiv).1 } := by
  rw [clockEdge_of_no_exec (hr ▸ nofun) (by simp [hr]), wake_of_not_enabled (.inr (by simpa using hk))]

/-- R243, R284: so the step of such an edge changes the timers, the accumulators and the script only. -/
theorem step_clockEdge_of_waitKey {rest : List AgentStep} (hs : s.script = .clockEdge :: rest) (hr : s.run = .waitKey)
    (hk : s.keys = 0x0000#16) :
    ∃ u, step s = .next u
      ∧ u = { s with dt := u.dt, st := u.st, tdiv := u.tdiv, idiv := u.idiv, script := rest }
      ∧ u.dt.toNat = s.dt.toNat - (if (divide s.cfg.clkHz 60 s.tdiv).2 = true then 1 else 0)
      ∧ u.st.toNat = s.st.toNat - (if (divide s.cfg.clkHz 60 s.tdiv).2 = true then 1 else 0)
      ∧ u.tdiv = (divide s.cfg.clkHz 60 s.tdiv).1 := by
  have hedge := clockEdge_of_no_key (s := { s with script := rest }) hr hk
  refine ⟨_, (step_of_script_cons hs).trans hedge, ?_, edgeTick_timers (s := { s with script := rest }) (hr ▸ nofun)⟩
  rw [edgeTick_rest]

theorem run_succ_of_step {u : State} (n : Nat) (h : step s = .next u) :
    Host.Core.run Sys2Proof.core (n + 1) s = Host.Core.run Sys2Proof.core n u := by
  have hcore : core.step s = .next u := h
  simp only [Host.Core.run, hcore]

/-- R243, R284: a machine that waits with no key down lets `n` edges take the events of `n` edges of the tick accumulator. -/
theorem run_clockEdges_of_waitKey (n : Nat) (hs : s.script = List.replicate n .clockEdge) (hr : s.run = .waitKey)
    (hk : s.keys = 0x0000#16) :
    ∃ t, Host.Core.run Sys2Proof.core n s = .next t
      ∧ t = { s with dt := t.dt, st := t.st, tdiv := t.tdiv, idiv := t.idiv, script := [] }
      ∧ t.dt.toNat = s.dt.toNat - (divideRun s.cfg.clkHz 60 n s.tdiv).2
      ∧ t.st.toNat = s.st.toNat - (divideRun s.cfg.clkHz 60 n s.tdiv).2
      ∧ t.tdiv = (divideRun s.cfg.clkHz 60 n s.tdiv).1 := by
  induction n generalizing s with
  | zero => exact ⟨s, rfl, by rw [← hs.trans List.replicate_zero], rfl, rfl, rfl⟩
  | succ n ih =>
    obtain ⟨u, hu, huframe, hudt, hust, hutdiv⟩ := step_clockEdge_of_waitKey (hs.trans List.replicate_succ) hr hk
    obtain ⟨t, ht, htframe, htdt, htst, httdiv⟩ := ih (s := u) (by rw [huframe]) (by rw [huframe, hr]) (by rw [huframe, hk])
    have hucfg : u.cfg = s.cfg := by rw [huframe]
    rw [hucfg, hutdiv] at htdt htst httdiv
    refine ⟨t, (run_succ_of_step n hu).trans ht, ?_, ?_, ?_, httdiv⟩
    · rw [htframe, huframe]
    · rw [htdt, hudt, divideRun, Nat.sub_sub, Nat.add_comm]
    · rw [htst, hust, divideRun, Nat.sub_sub, Nat.add_comm]

/-- Settles O52: the events of the tick accumulator are those of O50. -/
theorem waitingMachineTicksAtSixtyHertz : Obligations.WaitingMachineTicksAtSixtyHertz := by
  intro n s hr hk htdiv hclk
  have hevents := dividerNeverDrifts s.cfg.clkHz 60 n (by omega) hclk
  have hrun := run_clockEdges_of_waitKey (s := { s with script := List.replicate n .clockEdge }) n rfl hr hk
  simpa only [htdiv, hevents] using hrun

end Sys2Proof.Machine
end
